-- ==== Sys2Proof/Word.lean ====
section
/-! DEFINITION. The two word types of the block: a bus word and a byte of a byte window. -/

namespace Sys2Proof

/-- One 32-bit bus word: every transaction moves exactly one (20_memory.md R71). -/
abbrev Word := BitVec 32

/-- One byte of a byte window (20_memory.md R73). -/
abbrev Byte := BitVec 8

end Sys2Proof
end

