-- ==== Sys2Proof/Config.lean ====
section
/-! DEFINITION. The OPEN parameters of the spec (92_eei_decisions.md, table "Open parameters";
00_scope.md R7): constants with no value that a proof could lean on. Every other row of R7 is fixed by the
model's types and definitions. DESIGN CHOICE (log entry 10), safe. -/

namespace Sys2Proof.Config

/-- The number of the 4 KiB page of the host's address space that holds the window (OPEN, 20_memory.md R70). -/
opaque basePage : Nat

/-- BASE_ADDR, 4 KiB aligned (20_memory.md R70). -/
def baseAddr : Nat := 4096 * basePage

/-- IRQ_LINE: the platform's interrupt input that `irq` drives (OPEN, 60_exceptions.md R262). -/
opaque irqLine : Nat

/-- The cycles of a command's latency beyond the first, for its opcode, CTRL.ALG and KEYLEN.LEN (OPEN). -/
opaque latencyBeyondFirst : BitVec 4 → BitVec 2 → BitVec 16 → Nat

/-- LATENCY(op), at least one cycle (70_reset_and_hazards.md R292). "No rule of the model depends on it": no
definition of the machine reads it; the moment of completion is the engine's place in the agenda. -/
def latency (op : BitVec 4) (alg : BitVec 2) (keylen : BitVec 16) : Nat := latencyBeyondFirst op alg keylen + 1

end Sys2Proof.Config
end

