-- ==== Sys2Proof/Syntax.lean ====
section
/-! DEFINITION. The block's command set: one constructor for each row of spec/opcode_table.json. -/

namespace Sys2Proof

/-- The seven commands (30_encoding.md R101). "A command has no register, immediate or mode field: every operand is
a register of the block" (R100), so no constructor has an argument; CMD bits 31:4 are "not decoded, not stored, not
reported" (R100) and are no part of the command. -/
inductive Instr where
  /-- CONV: COUNTER <- TIME div PERIOD (40_counter_time.md R130). -/
  | conv
  /-- HMAC: DIGEST <- HMAC_alg(KEY, BE_8(COUNTER)) (41_hmac.md R150). -/
  | hmac
  /-- TRUNC: OFFSET, BINARY <- dynamic truncation of DIGEST (43_truncation.md R200). -/
  | trunc
  /-- REDUCE: CODE, CODE_BCD, CODE_ASCII <- BINARY mod 10^DIGITS (44_decimal_reduction.md R215). -/
  | reduce
  /-- HOTP: HMAC, TRUNC, REDUCE in one completion (45_composite_and_key.md R230). -/
  | hotp
  /-- TOTP: CONV, then HOTP, in one completion (45_composite_and_key.md R231). -/
  | totp
  /-- ZEROIZE: KEY <- 0, KEYLEN <- 0 (45_composite_and_key.md R232). -/
  | zeroize
  deriving DecidableEq, Repr

end Sys2Proof
end

