-- ==== Sys2Proof/WellFormed.lean ====
section
/-! DEFINITION. Which command opcodes are well formed. The host programs' own well-formedness stands with their
syntax, in Machine/HostProgram.lean. -/

namespace Sys2Proof

/-- The legal values of the CMD field OP: 1 to 7; 0x0 and 0x8 to 0xF are illegal (30_encoding.md R101, R108). -/
def legalOp (op : BitVec 4) : Bool := 1 ≤ op.toNat && op.toNat ≤ 7

/-- A CMD word is well formed when its OP field is legal, whatever bits 31:4 are (30_encoding.md R103, R108). -/
def wellFormedWord (w : Word) : Bool := legalOp (w.extractLsb' 0 4)

/-- Every command is well formed: it carries no operand that could be out of range (30_encoding.md R103). -/
def Instr.wellFormed : Instr → Bool
  | .conv => true
  | .hmac => true
  | .trunc => true
  | .reduce => true
  | .hotp => true
  | .totp => true
  | .zeroize => true

end Sys2Proof
end

