-- ==== Sys2Proof/Decode.lean ====
section
/-! DEFINITION. The decoder and the encoder of CMD words (30_encoding.md R100, R101, R103, R108, R110), and the
host's entry point to the decoder. -/

namespace Sys2Proof

/-- Why a CMD word is no command. -/
inductive DecodeError where
  /-- The OP field is 0x0 or 0x8 to 0xF (30_encoding.md R108). Raised by `decode`; the CMD write then rejects the
  command with ILLEGAL_COMMAND and records this OP (60_exceptions.md R255). -/
  | illegalCommand (op : BitVec 4)
  deriving DecidableEq, Repr

/-- OP(mnemonic), the opcode map (30_encoding.md R101, R113). -/
def opcode : Instr → BitVec 4
  | .conv => 0x1
  | .hmac => 0x2
  | .trunc => 0x3
  | .reduce => 0x4
  | .hotp => 0x5
  | .totp => 0x6
  | .zeroize => 0x7

/-- The opcode map read the other way (30_encoding.md R101); none for the reserved opcodes. -/
def ofOpcode (op : BitVec 4) : Option Instr :=
  match op.toNat with
  | 0x1 => some .conv
  | 0x2 => some .hmac
  | 0x3 => some .trunc
  | 0x4 => some .reduce
  | 0x5 => some .hotp
  | 0x6 => some .totp
  | 0x7 => some .zeroize
  | _ => none

/-- CMD bits 3:0 (30_encoding.md R100). -/
def opField (w : Word) : BitVec 4 := w.extractLsb' 0 4

/-- The block's only decoder: it needs CMD bits 3:0 alone (30_encoding.md R101, R103), in every state (R110). -/
def decode (w : Word) : Except DecodeError Instr :=
  match ofOpcode (opField w) with
  | some i => .ok i
  | none => .error (.illegalCommand (opField w))

/-- The CMD word of a command with bits 31:4 chosen freely: `{ignored, OP}` (30_encoding.md R100). -/
def encodeWith (ignored : BitVec 28) (i : Instr) : Word := ignored ++ opcode i

/-- The CMD word the statement `CMD <mnemonic>` writes: the opcode alone (30_encoding.md R111). -/
def encode (i : Instr) : Word := encodeWith 0 i

/-- A table word of `nbits` bits as the 32-bit CMD word it stands for, every bit above `nbits` zero. The CMD word is
one bus word (20_memory.md R71), so it has no byte order of its own. -/
def tableWord (nbits w : Nat) : Word := BitVec.ofNat 32 (w % 2 ^ nbits)

/-- What `decode` reads from a word numbered as spec/opcode_table.json numbers it. -/
def decodeTableWord (nbits w : Nat) : Option Instr :=
  match decode (tableWord nbits w) with
  | .ok i => some i
  | .error _ => none

end Sys2Proof
end

