-- ==== Sys2Proof/Machine/State.lean ====
section
/-! DEFINITION. The machine's state as plain data: the block's registers (exactly the record of 10_state.md R20), and
the port's pending steps and last read word, which are the model's own. -/

namespace Sys2Proof.Machine

/-- CTRL (10_state.md R23): DIGITS is bits 7:4, ALG bits 1:0; the reserved bits are not stored. -/
structure Ctrl where
  digits : BitVec 4
  alg : BitVec 2
  deriving DecidableEq, Repr

/-- STATUS (10_state.md R31): BUSY bit 0, DONE bit 1, ERR bit 2, OVERRUN bit 3. -/
structure Status where
  busy : Bool
  done : Bool
  err : Bool
  overrun : Bool
  deriving DecidableEq, Repr

/-- ERRINFO (10_state.md R36): OP bits 19:16, CAUSE bits 11:8, CODE bits 3:0. -/
structure ErrInfo where
  op : BitVec 4
  cause : BitVec 4
  code : BitVec 4
  deriving DecidableEq, Repr

/-- IRQ_EN (10_state.md R37): DONE_IE bit 0, ERR_IE bit 1, OVR_IE bit 2. -/
structure IrqEn where
  doneIe : Bool
  errIe : Bool
  ovrIe : Bool
  deriving DecidableEq, Repr

/-- The architectural state of the block (10_state.md R20). ID and VERSION are hard-wired (R22) and CMD has no storage
(R30), so they have no field: `readReg` answers for them. -/
structure Block where
  /-- CTRL, R23. -/
  ctrl : Ctrl
  /-- PERIOD, R26. -/
  period : Word
  /-- TIME_LO, R27. -/
  timeLo : Word
  /-- TIME_HI, R27. -/
  timeHi : Word
  /-- COUNTER_LO, R28. -/
  counterLo : Word
  /-- COUNTER_HI, R28. -/
  counterHi : Word
  /-- KEYLEN.LEN, R29. -/
  keylen : BitVec 16
  /-- STATUS, R31. -/
  status : Status
  /-- ERRINFO, R36. -/
  errInfo : ErrInfo
  /-- IRQ_EN, R37. -/
  irqEn : IrqEn
  /-- OFFSET.OFF, R38. -/
  offset : BitVec 4
  /-- BINARY, R39. -/
  binary : Word
  /-- CODE, R40. -/
  code : Word
  /-- CODE_BCD_LO, R41. -/
  bcdLo : Word
  /-- CODE_BCD_HI bits 7:0, R41; bits 31:8 read 0. -/
  bcdHi : BitVec 8
  /-- CODE_ASCII, the window ASCII[0..15], R42. -/
  ascii : Vector Byte 16
  /-- The window DIGEST[0..63], R43. -/
  digest : Vector Byte 64
  /-- The secret buffer KEY[0..255], R44. -/
  key : Vector Byte 256
  /-- The hidden register PEND_OP, R45. -/
  pendOp : BitVec 4
  deriving DecidableEq, Repr

/-- The atomic steps of 00_scope.md R12: a host bus transaction, an engine completion, a reset. Offsets are 12 bits
(20_memory.md R70), data one word (R71). -/
inductive Event where
  /-- `BusRead(off)`. -/
  | read (off : BitVec 12)
  /-- `BusWrite(off, data)`. -/
  | write (off : BitVec 12) (data : Word)
  /-- The engine's turn: the completion step of 10_state.md R46, enabled when BUSY = 1. -/
  | engine
  /-- The platform asserts `rst` (70_reset_and_hazards.md R280). -/
  | reset
  deriving DecidableEq, Repr

/-- The machine: the block, and at its port the steps still to come (the first is next) and the word the last bus
read answered. DESIGN CHOICE for the two port fields (log entries 1 and 4). -/
structure State where
  block : Block
  agenda : List Event
  readData : Option Word
  deriving DecidableEq, Repr

/-- The two ways the engine can be stuck. 10_state.md R46 says that neither state occurs ("PEND_OP never holds any
other value while BUSY = 1 ... so no `exec_` function can fail") and gives it no effect. DEDUCED (log entry 6), safe. -/
inductive Fault where
  /-- BUSY = 1 and PEND_OP is no legal opcode. Raised by `engineTurn`. Safe: the machine stops where the spec gives no
  step. -/
  | engineIllegalOp
  /-- BUSY = 1 and a parameter check of the command fails. Raised by `complete`. Safe: the machine stops where the spec
  gives no step. -/
  | engineUncheckedOperands
  deriving DecidableEq, Repr

/-- Why a step has no meaning. -/
inductive Refusal where
  /-- The instruction of this mnemonic has no meaning yet. Raised by `exec` only; no arm raises it any more. Safe. -/
  | notModelled (mnemonic : String)
  deriving DecidableEq, Repr

/-- The block after reset (70_reset_and_hazards.md R280, 10_state.md R50). -/
def Block.reset : Block where
  ctrl := { digits := 6, alg := 0 }
  period := 0x0000001E
  timeLo := 0
  timeHi := 0
  counterLo := 0
  counterHi := 0
  keylen := 0
  status := { busy := false, done := false, err := false, overrun := false }
  errInfo := { op := 0, cause := 0, code := 0 }
  irqEn := { doneIe := false, errIe := false, ovrIe := false }
  offset := 0
  binary := 0
  code := 0
  bcdLo := 0
  bcdHi := 0
  ascii := Vector.replicate 16 0x00
  digest := Vector.replicate 64 0x00
  key := Vector.replicate 256 0x00
  pendOp := 0

/-- The machine right after reset: the block's reset state, no step pending and no read answered. -/
def State.reset : State where
  block := Block.reset
  agenda := []
  readData := none

end Sys2Proof.Machine
end

