-- ==== Sys2Proof/Machine/Operands.lean ====
section
/-! DEFINITION. The operands of every command, assembled from the registers (30_encoding.md R104, R105), the
byte-string notation of 00_scope.md R10 and the byte windows of 20_memory.md R73. -/

namespace Sys2Proof.Machine

/-- `BE_n(v)`: the n-byte big-endian byte string of v (00_scope.md R10), byte 0 most significant. -/
def beBytes : Nat → Nat → List Byte
  | 0, _ => []
  | n + 1, v => BitVec.ofNat 8 (v / 256 ^ n) :: beBytes n v

/-- `BEval(s)`: the natural a big-endian byte string denotes (00_scope.md R10). -/
def beVal (s : List Byte) : Nat := s.foldl (fun acc b => acc * 256 + b.toNat) 0

/-- The hash algorithms of the closed enumeration (00_scope.md R2, 10_state.md R24). -/
inductive HashAlg where
  | sha1
  | sha256
  | sha512
  deriving DecidableEq, Repr

/-- CTRL.ALG as an algorithm (30_encoding.md R106); 3 is the reserved, unsupported one. -/
def hashAlgOf (alg : BitVec 2) : Option HashAlg :=
  match alg.toNat with
  | 0 => some .sha1
  | 1 => some .sha256
  | 2 => some .sha512
  | _ => none

/-- L(alg), the digest length in bytes (00_scope.md R8). -/
def digestLen : HashAlg → Nat
  | .sha1 => 20
  | .sha256 => 32
  | .sha512 => 64

/-- B(alg), the hash block length in bytes (00_scope.md R8). -/
def blockLen : HashAlg → Nat
  | .sha1 => 64
  | .sha256 => 64
  | .sha512 => 128

/-- KEY_BUF_BYTES (00_scope.md R7). -/
def keyBufBytes : Nat := 256

/-- `time = {TIME_HI, TIME_LO}`, a natural below 2^64 (30_encoding.md R105). -/
def timeOf (b : Block) : Nat := (b.timeHi ++ b.timeLo).toNat

/-- `period = sint_32(PERIOD)` (30_encoding.md R105). -/
def periodOf (b : Block) : Int := b.period.toInt

/-- `counter = {COUNTER_HI, COUNTER_LO}`, a natural below 2^64 (30_encoding.md R105). -/
def counterOf (b : Block) : Nat := (b.counterHi ++ b.counterLo).toNat

/-- `msg = BE_8(counter)` (30_encoding.md R105, 20_memory.md R75). -/
def messageOf (b : Block) : List Byte := beBytes 8 (counterOf b)

/-- `d = CTRL.DIGITS` (30_encoding.md R105). -/
def digitsOf (b : Block) : Nat := b.ctrl.digits.toNat

/-- `keylen = KEYLEN.LEN` (30_encoding.md R105). -/
def keylenOf (b : Block) : Nat := b.keylen.toNat

/-- `key = KEY[0] ++ ... ++ KEY[keylen-1]` (30_encoding.md R105, 41_hmac.md R156). -/
def keyOf (b : Block) : List Byte := b.key.toList.take (keylenOf b)

/-- DIGEST[i] (10_state.md R43); only i <= 63 is ever asked for (43_truncation.md R203). -/
def digestByte (b : Block) (i : Nat) : Byte := b.digest.toList.getD i 0

/-- `binary = BINARY`, the unsigned value (30_encoding.md R105, 44_decimal_reduction.md R221). -/
def binaryOf (b : Block) : Nat := b.binary.toNat

/-- Byte j of a window word: byte 0 in bits 31:24, byte 3 in bits 7:0 (20_memory.md R73). -/
def byteOfWord (w : Word) (j : Nat) : Byte := w.extractLsb' (24 - 8 * j) 8

/-- `win_word(W, k) = {W[4k], W[4k+1], W[4k+2], W[4k+3]}` (20_memory.md R73). -/
def winWord {n : Nat} (v : Vector Byte n) (k : Nat) : Word :=
  v.toList.getD (4 * k) 0 ++ v.toList.getD (4 * k + 1) 0 ++ v.toList.getD (4 * k + 2) 0 ++ v.toList.getD (4 * k + 3) 0

/-- `store_word(W, k, w)`: W[4k..4k+3] take the bytes of w, every other byte stays (20_memory.md R73). -/
def storeWord {n : Nat} (v : Vector Byte n) (k : Nat) (w : Word) : Vector Byte n :=
  Vector.ofFn fun i => if i.val / 4 = k then byteOfWord w (i.val % 4) else v[i]

end Sys2Proof.Machine
end

