-- ==== Sys2Proof/Machine/Flags.lean ====
section
/-! DEFINITION. The status flags: their layout in STATUS, ERRINFO and IRQ_EN, what sets and clears them, the parameter
checks of every command, and the interrupt level. The block has no arithmetic flag (10_state.md R48). -/

namespace Sys2Proof.Machine

/-- STATUS as a bus word: `{28'b0, OVERRUN, ERR, DONE, BUSY}` (20_memory.md R80). -/
def Status.toWord (s : Status) : Word :=
  0#28 ++ BitVec.ofBool s.overrun ++ BitVec.ofBool s.err ++ BitVec.ofBool s.done ++ BitVec.ofBool s.busy

/-- A host write of STATUS: DONE, ERR and OVERRUN are cleared by writing 1; BUSY ignores the write (20_memory.md R81). -/
def Status.clearedBy (s : Status) (w : Word) : Status :=
  { s with
    done := s.done && !w.getLsbD 1
    err := s.err && !w.getLsbD 2
    overrun := s.overrun && !w.getLsbD 3 }

/-- ERRINFO as a bus word: `{12'b0, OP, 4'b0, CAUSE, 4'b0, CODE}` (20_memory.md R80). -/
def ErrInfo.toWord (e : ErrInfo) : Word := 0#12 ++ e.op ++ 0#4 ++ e.cause ++ 0#4 ++ e.code

/-- IRQ_EN as a bus word: `{29'b0, OVR_IE, ERR_IE, DONE_IE}` (20_memory.md R80). -/
def IrqEn.toWord (e : IrqEn) : Word :=
  0#29 ++ BitVec.ofBool e.ovrIe ++ BitVec.ofBool e.errIe ++ BitVec.ofBool e.doneIe

/-- `IRQ_EN <- w[2:0]` (20_memory.md R81). -/
def IrqEn.ofWord (w : Word) : IrqEn :=
  { doneIe := w.getLsbD 0, errIe := w.getLsbD 1, ovrIe := w.getLsbD 2 }

/-- CTRL as a bus word: `{24'b0, DIGITS, 2'b0, ALG}` (20_memory.md R80). -/
def Ctrl.toWord (c : Ctrl) : Word := 0#24 ++ c.digits ++ 0#2 ++ c.alg

/-- `DIGITS <- w[7:4]; ALG <- w[1:0]` (20_memory.md R81). -/
def Ctrl.ofWord (w : Word) : Ctrl := { digits := w.extractLsb' 4 4, alg := w.extractLsb' 0 2 }

/-- ERRINFO.CODE of an accepted command (60_exceptions.md R251). -/
def codeNone : BitVec 4 := 0

/-- ERRINFO.CODE INVALID_PARAMETER (60_exceptions.md R251). -/
def codeInvalidParameter : BitVec 4 := 1

/-- ERRINFO.CODE ILLEGAL_COMMAND (60_exceptions.md R251). -/
def codeIllegalCommand : BitVec 4 := 3

/-- BAD_PERIOD: sint_32(PERIOD) <= 0 (60_exceptions.md R252). -/
def badPeriod (b : Block) : Bool := periodOf b ≤ 0

/-- BAD_ALG: CTRL.ALG = 3 (60_exceptions.md R252). -/
def badAlg (b : Block) : Bool := b.ctrl.alg = 3

/-- BAD_KEYLEN: KEYLEN.LEN > 256 (60_exceptions.md R252). -/
def badKeylen (b : Block) : Bool := keylenOf b > keyBufBytes

/-- BAD_DIGITS: CTRL.DIGITS < 6 or > 10 (60_exceptions.md R252). -/
def badDigits (b : Block) : Bool := !(6 ≤ digitsOf b && digitsOf b ≤ 10)

/-- The commands that read PERIOD: CONV and TOTP (60_exceptions.md R254). -/
def readsPeriod : Instr → Bool
  | .conv | .totp => true
  | .hmac | .trunc | .reduce | .hotp | .zeroize => false

/-- The commands that read CTRL.ALG: HMAC, TRUNC, HOTP and TOTP (60_exceptions.md R254). -/
def readsAlg : Instr → Bool
  | .hmac | .trunc | .hotp | .totp => true
  | .conv | .reduce | .zeroize => false

/-- The commands that read KEY and KEYLEN: HMAC, HOTP and TOTP (60_exceptions.md R254). -/
def readsKey : Instr → Bool
  | .hmac | .hotp | .totp => true
  | .conv | .trunc | .reduce | .zeroize => false

/-- The commands that read CTRL.DIGITS: REDUCE, HOTP and TOTP (60_exceptions.md R254). -/
def readsDigits : Instr → Bool
  | .reduce | .hotp | .totp => true
  | .conv | .hmac | .trunc | .zeroize => false

/-- `checks(op)`, the 4-bit CAUSE mask (60_exceptions.md R254): bit 0 BAD_PERIOD, bit 1 BAD_ALG, bit 2 BAD_KEYLEN, bit 3
BAD_DIGITS, each for the command's own operands only. -/
def checks (i : Instr) (b : Block) : BitVec 4 :=
  BitVec.ofBool (readsDigits i && badDigits b) ++ BitVec.ofBool (readsKey i && badKeylen b)
    ++ BitVec.ofBool (readsAlg i && badAlg b) ++ BitVec.ofBool (readsPeriod i && badPeriod b)

/-- `irq`, the level-sensitive interrupt output (60_exceptions.md R262). -/
def irq (b : Block) : Bool :=
  (b.status.done && b.irqEn.doneIe) || (b.status.err && b.irqEn.errIe) || (b.status.overrun && b.irqEn.ovrIe)

end Sys2Proof.Machine
end

