-- ==== Sys2Proof/Machine/RegMap.lean ====
section
/-! DEFINITION. The register map: the registers by name, their offsets (30_encoding.md R113, 10_state.md R20), the
address decoder, and what each register answers to a read and takes from a write (20_memory.md R80, R81). -/

namespace Sys2Proof.Machine

/-- The registers of 10_state.md R20, by the names of 30_encoding.md R113. -/
inductive Reg where
  | id
  | version
  | ctrl
  | period
  | timeLo
  | timeHi
  | counterLo
  | counterHi
  | keylen
  | cmd
  | status
  | errinfo
  | irqEn
  | offset
  | binary
  | code
  | codeBcdLo
  | codeBcdHi
  | codeAscii (k : Fin 4)
  | digest (k : Fin 16)
  | key (k : Fin 64)
  deriving DecidableEq, Repr

/-- `off(reg)` (30_encoding.md R113). -/
def Reg.off : Reg → BitVec 12
  | .id => 0x000
  | .version => 0x004
  | .ctrl => 0x008
  | .period => 0x00C
  | .timeLo => 0x010
  | .timeHi => 0x014
  | .counterLo => 0x018
  | .counterHi => 0x01C
  | .keylen => 0x020
  | .cmd => 0x024
  | .status => 0x028
  | .errinfo => 0x02C
  | .irqEn => 0x030
  | .offset => 0x034
  | .binary => 0x038
  | .code => 0x03C
  | .codeBcdLo => 0x040
  | .codeBcdHi => 0x044
  | .codeAscii k => BitVec.ofNat 12 (0x050 + 4 * k.val)
  | .digest k => BitVec.ofNat 12 (0x100 + 4 * k.val)
  | .key k => BitVec.ofNat 12 (0x200 + 4 * k.val)

/-- The word offset a transaction reaches: offset bits 1:0 are not decoded (20_memory.md R71). -/
def wordOffset (off : BitVec 12) : BitVec 12 := off &&& 0xFFC

/-- The word registers, by word offset (20_memory.md R80, R81). -/
def wordRegAt : Nat → Option Reg
  | 0x000 => some .id
  | 0x004 => some .version
  | 0x008 => some .ctrl
  | 0x00C => some .period
  | 0x010 => some .timeLo
  | 0x014 => some .timeHi
  | 0x018 => some .counterLo
  | 0x01C => some .counterHi
  | 0x020 => some .keylen
  | 0x024 => some .cmd
  | 0x028 => some .status
  | 0x02C => some .errinfo
  | 0x030 => some .irqEn
  | 0x034 => some .offset
  | 0x038 => some .binary
  | 0x03C => some .code
  | 0x040 => some .codeBcdLo
  | 0x044 => some .codeBcdHi
  | _ => none

/-- The register at a word offset, none where the offset is reserved (20_memory.md R72, R80, R81). -/
def regAtWord (o : Nat) : Option Reg :=
  if 0x050 ≤ o ∧ o ≤ 0x05C then some (.codeAscii (Fin.ofNat 4 ((o - 0x050) / 4)))
  else if 0x100 ≤ o ∧ o ≤ 0x13C then some (.digest (Fin.ofNat 16 ((o - 0x100) / 4)))
  else if 0x200 ≤ o ∧ o ≤ 0x2FC then some (.key (Fin.ofNat 64 ((o - 0x200) / 4)))
  else wordRegAt o

/-- The register a transaction at offset `off` reaches. -/
def regAt (off : BitVec 12) : Option Reg := regAtWord (wordOffset off).toNat

/-- The hard-wired ID, the ASCII bytes "TOTP" (10_state.md R22). -/
def idWord : Word := 0x544F5450

/-- The hard-wired VERSION (10_state.md R22). -/
def versionWord : Word := 0x00000001

/-- What a read of a register answers (20_memory.md R80): CMD and KEY are write-only and read 0. -/
def readReg (b : Block) : Reg → Word
  | .id => idWord
  | .version => versionWord
  | .ctrl => b.ctrl.toWord
  | .period => b.period
  | .timeLo => b.timeLo
  | .timeHi => b.timeHi
  | .counterLo => b.counterLo
  | .counterHi => b.counterHi
  | .keylen => 0#16 ++ b.keylen
  | .cmd => 0
  | .status => b.status.toWord
  | .errinfo => b.errInfo.toWord
  | .irqEn => b.irqEn.toWord
  | .offset => 0#28 ++ b.offset
  | .binary => b.binary
  | .code => b.code
  | .codeBcdLo => b.bcdLo
  | .codeBcdHi => 0#24 ++ b.bcdHi
  | .codeAscii k => winWord b.ascii k.val
  | .digest k => winWord b.digest k.val
  | .key _ => 0

/-- The word `BusRead(off)` returns; a reserved offset reads 0 (20_memory.md R80, R72). -/
def busReadWord (off : BitVec 12) (b : Block) : Word :=
  match regAt off with
  | some r => readReg b r
  | none => 0

/-- The set INPUTS of 20_memory.md R81. -/
def isInput : Reg → Bool
  | .ctrl | .period | .timeLo | .timeHi | .counterLo | .counterHi | .keylen | .binary | .digest _ | .key _ => true
  | .id | .version | .cmd | .status | .errinfo | .irqEn | .offset | .code | .codeBcdLo | .codeBcdHi | .codeAscii _ => false

/-- The store of a written word in an input register, in the idle block (20_memory.md R81). A register outside INPUTS
stores nothing here. -/
def storeInput (w : Word) (b : Block) : Reg → Block
  | .ctrl => { b with ctrl := Ctrl.ofWord w }
  | .period => { b with period := w }
  | .timeLo => { b with timeLo := w }
  | .timeHi => { b with timeHi := w }
  | .counterLo => { b with counterLo := w }
  | .counterHi => { b with counterHi := w }
  | .keylen => { b with keylen := w.extractLsb' 0 16 }
  | .binary => { b with binary := w }
  | .digest k => { b with digest := storeWord b.digest k.val w }
  | .key k => { b with key := storeWord b.key k.val w }
  | .id | .version | .cmd | .status | .errinfo | .irqEn | .offset | .code | .codeBcdLo | .codeBcdHi | .codeAscii _ => b

/-- The host's address of a window offset: BASE_ADDR plus the offset (20_memory.md R70). -/
def hostAddress (off : BitVec 12) : Nat := Config.baseAddr + off.toNat

/-- The window offset a host address reaches, none outside the 4 KiB window (20_memory.md R70). An address is a natural
here: the spec gives no width of the host's address space. DESIGN CHOICE (log entry 11), safe. -/
def windowOffset (addr : Nat) : Option (BitVec 12) :=
  if Config.baseAddr ≤ addr ∧ addr < Config.baseAddr + 4096 then some (BitVec.ofNat 12 (addr - Config.baseAddr)) else none

end Sys2Proof.Machine
end

