-- ==== Sys2Proof/Machine/Ops.lean ====
section
/-! DEFINITION. The shared operations of a command: overrun, acceptance, rejection (the block's "trap entry"), the
return from it, engine completion, and the two steps of a command's meaning. -/

namespace Sys2Proof.Machine

/-- What a step of this machine answers. -/
abbrev Outcome := Host.Outcome State Fault Refusal

/-- The next state whose block is `b`. -/
def State.withBlock (s : State) (b : Block) : State := { s with block := b }

/-- A dropped write: OVERRUN is set and nothing else changes (60_exceptions.md R257, 20_memory.md R81). -/
def setOverrun (b : Block) : Block := { b with status := { b.status with overrun := true } }

/-- REJECTION, the block's trap entry (60_exceptions.md R256): ERRINFO records OP, CAUSE and CODE, ERR and DONE are set,
and nothing else changes. No control goes anywhere (R250, R259). -/
def reject (op cause code : BitVec 4) (b : Block) : Block :=
  { b with
    errInfo := { op := op, cause := cause, code := code }
    status := { b.status with err := true, done := true } }

/-- The rejection of an illegal opcode: ILLEGAL_COMMAND, no parameter checked (60_exceptions.md R255, R258). -/
def rejectIllegal (op : BitVec 4) (b : Block) : Block := reject op 0 codeIllegalCommand b

/-- The return from an error: the host's W1C write of STATUS (60_exceptions.md R260, 20_memory.md R81). -/
def writeStatus (w : Word) (b : Block) : Block := { b with status := b.status.clearedBy w }

/-- The host's write of IRQ_EN (20_memory.md R81). -/
def writeIrqEn (w : Word) (b : Block) : Block := { b with irqEn := IrqEn.ofWord w }

/-- ACCEPTANCE (60_exceptions.md R255): ERRINFO <- {OP, 0, NONE}, DONE <- 0, BUSY <- 1, PEND_OP <- op; ERR and OVERRUN
stay. -/
def accept (op : BitVec 4) (b : Block) : Block :=
  { b with
    errInfo := { op := op, cause := 0, code := codeNone }
    status := { b.status with done := false, busy := true }
    pendOp := op }

/-- The CMD write of a legal command in the idle block: rejected with every failed check's CAUSE bit, or accepted
(60_exceptions.md R255, R258). -/
def issue (i : Instr) (b : Block) : Block :=
  if checks i b = 0 then accept (opcode i) b else reject (opcode i) (checks i b) codeInvalidParameter b

/-- The end of the engine completion: BUSY <- 0, DONE <- 1, PEND_OP <- 0 (10_state.md R46). -/
def finish (b : Block) : Block :=
  { b with status := { b.status with busy := false, done := true }, pendOp := 0 }

/-- The engine completion step of a command whose effect on the registers is `effect` (10_state.md R46). A busy block
whose command fails a check is stuck: the spec says that no such state occurs (R46; DEDUCED, log entry 6, safe). -/
def complete (i : Instr) (effect : Block → Block) (s : State) : Outcome :=
  if checks i s.block = 0 then .next (s.withBlock (finish (effect s.block))) else .fault .engineUncheckedOperands

/-- A command's meaning in the step that runs it: in the idle block its CMD write (60_exceptions.md R255), in the busy
block its engine completion (10_state.md R46). DESIGN CHOICE (log entry 5), safe: the two steps stay two steps. -/
def command (i : Instr) (effect : Block → Block) (s : State) : Outcome :=
  if s.block.status.busy then complete i effect s else .next (s.withBlock (issue i s.block))

end Sys2Proof.Machine
end

