-- ==== Sys2Proof/Machine/Conv.lean ====
section
/-! DEFINITION. The counter-time converter: CONV (40_counter_time.md). -/

namespace Sys2Proof.Machine

/-- `exec_CONV`: COUNTER <- TIME div PERIOD, floor division of naturals (40_counter_time.md R130, R131). -/
def convEffect (b : Block) : Block :=
  let counter : BitVec 64 := BitVec.ofNat 64 (timeOf b / (periodOf b).toNat)
  { b with counterLo := counter.extractLsb' 0 32, counterHi := counter.extractLsb' 32 32 }

/-- CONV (40_counter_time.md R130). -/
def execConv (s : State) : Outcome := command .conv convEffect s

end Sys2Proof.Machine
end

