-- ==== Sys2Proof/Machine/Sha.lean ====
section
/-! DEFINITION. The hash functions SHA-1, SHA-256 and SHA-512 of 42_sha_functions.md, defined by its rules R171 to R185
(R170 lets a model define them or take them as a parameter; DESIGN CHOICE, log entry 12). -/

namespace Sys2Proof.Machine

/-! ### Padding and message words (R171, R172, R173) -/

/-- The least k with (n + 1 + k + lenBytes) mod block = 0 (42_sha_functions.md R171, R172; Laws/Sha.lean proves it
least). -/
def padZeros (block lenBytes n : Nat) : Nat := (block - (n + 1 + lenBytes) % block) % block

/-- M ++ [0x80] ++ zeros(k) ++ the bit length in `lenBytes` big-endian bytes. -/
def padMessage (block lenBytes : Nat) (m : List Byte) : List Byte :=
  m ++ [0x80] ++ List.replicate (padZeros block lenBytes m.length) 0x00 ++ beBytes lenBytes (8 * m.length)

/-- `pad512(M)` (42_sha_functions.md R171). -/
def pad512 (m : List Byte) : List Byte := padMessage 64 8 m

/-- `pad1024(M)` (42_sha_functions.md R172). -/
def pad1024 (m : List Byte) : List Byte := padMessage 128 16 m

/-- The first `k` pieces of `n` bytes of a byte string. -/
def pieces (n : Nat) : Nat → List Byte → List (List Byte)
  | 0, _ => []
  | k + 1, s => s.take n :: pieces n k (s.drop n)

/-- A block of 16 big-endian words of `w` bits each (42_sha_functions.md R173). -/
def wordsOfBlock (w : Nat) (s : List Byte) : List (BitVec w) :=
  (pieces (w / 8) 16 s).map fun t => BitVec.ofNat w (beVal t)

/-- The blocks M(1) .. M(N) of a padded message, each as 16 words of `w` bits (42_sha_functions.md R173). -/
def messageBlocks (w blockBytes : Nat) (m : List Byte) : List (List (BitVec w)) :=
  (pieces blockBytes (m.length / blockBytes) m).map (wordsOfBlock w)

/-! ### Word operations (R173) -/

/-- `ROTR^n(x)` (42_sha_functions.md R173). -/
def rotr {w : Nat} (n : Nat) (x : BitVec w) : BitVec w := (x >>> n) ||| (x <<< (w - n))

/-- `ROTL^n(x) = ROTR^(w-n)(x)` (42_sha_functions.md R173). -/
def rotl {w : Nat} (n : Nat) (x : BitVec w) : BitVec w := rotr (w - n) x

/-- `SHR^n(x)` (42_sha_functions.md R173). -/
def shr {w : Nat} (n : Nat) (x : BitVec w) : BitVec w := x >>> n

/-- `Ch(x, y, z)` (42_sha_functions.md R173). -/
def chFn {w : Nat} (x y z : BitVec w) : BitVec w := (x &&& y) ^^^ (~~~x &&& z)

/-- `Maj(x, y, z)` (42_sha_functions.md R173). -/
def majFn {w : Nat} (x y z : BitVec w) : BitVec w := (x &&& y) ^^^ (x &&& z) ^^^ (y &&& z)

/-- `Parity(x, y, z)` (42_sha_functions.md R173). -/
def parityFn {w : Nat} (x y z : BitVec w) : BitVec w := x ^^^ y ^^^ z

/-- The word W[t-k] of a schedule W[0..t-1] held newest first, k >= 1. -/
def wordBack {w : Nat} (newestFirst : List (BitVec w)) (k : Nat) : BitVec w := newestFirst.getD (k - 1) 0

/-- Extends a schedule held newest first by `n` words, each made from the words before it. -/
def extendSchedule {w : Nat} (next : List (BitVec w) → BitVec w) : Nat → List (BitVec w) → List (BitVec w)
  | 0, ws => ws
  | n + 1, ws => extendSchedule next n (next ws :: ws)

/-- The message schedule W[0..15+n]: the block's 16 words, then `n` words made by `next`. -/
def schedule {w : Nat} (next : List (BitVec w) → BitVec w) (n : Nat) (m : List (BitVec w)) : List (BitVec w) :=
  (extendSchedule next n m.reverse).reverse

/-! ### SHA-1 (R174 to R176) -/

/-- The five hash words and working variables of SHA-1. -/
structure Sha1Vars where
  a : BitVec 32
  b : BitVec 32
  c : BitVec 32
  d : BitVec 32
  e : BitVec 32
  deriving DecidableEq, Repr

/-- `f_t(b, c, d)` (42_sha_functions.md R174). -/
def sha1F (t : Nat) (b c d : BitVec 32) : BitVec 32 :=
  if t < 20 then chFn b c d else if t < 40 then parityFn b c d else if t < 60 then majFn b c d else parityFn b c d

/-- `K_t` (42_sha_functions.md R174). -/
def sha1K (t : Nat) : BitVec 32 :=
  if t < 20 then 0x5A827999 else if t < 40 then 0x6ED9EBA1 else if t < 60 then 0x8F1BBCDC else 0xCA62C1D6

/-- The SHA-1 initial hash value (42_sha_functions.md R175). -/
def sha1Init : Sha1Vars :=
  { a := 0x67452301, b := 0xEFCDAB89, c := 0x98BADCFE, d := 0x10325476, e := 0xC3D2E1F0 }

/-- The 80 words of the SHA-1 schedule (42_sha_functions.md R176). -/
def sha1Schedule (m : List (BitVec 32)) : List (BitVec 32) :=
  schedule (fun ws => rotl 1 (wordBack ws 3 ^^^ wordBack ws 8 ^^^ wordBack ws 14 ^^^ wordBack ws 16)) 64 m

/-- Round t with its schedule word (42_sha_functions.md R176). -/
def sha1Round (v : Sha1Vars) (tw : Nat × BitVec 32) : Sha1Vars :=
  { a := rotl 5 v.a + sha1F tw.1 v.b v.c v.d + v.e + sha1K tw.1 + tw.2
    b := v.a
    c := rotl 30 v.b
    d := v.c
    e := v.d }

/-- One block of SHA-1: 80 rounds and the addition to the hash words (42_sha_functions.md R176). -/
def sha1Block (h : Sha1Vars) (m : List (BitVec 32)) : Sha1Vars :=
  let v := ((List.range 80).zip (sha1Schedule m)).foldl sha1Round h
  { a := h.a + v.a, b := h.b + v.b, c := h.c + v.c, d := h.d + v.d, e := h.e + v.e }

/-- The digest bytes: the hash words in order, each most significant byte first (42_sha_functions.md R185). -/
def Sha1Vars.bytes (h : Sha1Vars) : List Byte := [h.a, h.b, h.c, h.d, h.e].flatMap fun x => beBytes 4 x.toNat

/-- SHA1(M), 20 bytes (42_sha_functions.md R176). -/
def sha1 (m : List Byte) : List Byte := ((messageBlocks 32 64 (pad512 m)).foldl sha1Block sha1Init).bytes

/-! ### SHA-256 and SHA-512: the shared shape (R180, R184) -/

/-- The eight hash words and working variables of SHA-256 (w = 32) and SHA-512 (w = 64). -/
structure Sha2Vars (w : Nat) where
  a : BitVec w
  b : BitVec w
  c : BitVec w
  d : BitVec w
  e : BitVec w
  f : BitVec w
  g : BitVec w
  h : BitVec w
  deriving DecidableEq, Repr

/-- One round with its constant and schedule word, over the functions Sigma0 and Sigma1 of the hash
(42_sha_functions.md R180, R184). -/
def sha2Round {w : Nat} (bigSigma0 bigSigma1 : BitVec w → BitVec w) (v : Sha2Vars w) (kw : BitVec w × BitVec w) :
    Sha2Vars w :=
  let t1 := v.h + bigSigma1 v.e + chFn v.e v.f v.g + kw.1 + kw.2
  let t2 := bigSigma0 v.a + majFn v.a v.b v.c
  { a := t1 + t2, b := v.a, c := v.b, d := v.c, e := v.d + t1, f := v.e, g := v.f, h := v.g }

/-- `sigma1(W[t-2]) + W[t-7] + sigma0(W[t-15]) + W[t-16]` (42_sha_functions.md R180, R184). -/
def sha2Next {w : Nat} (sigma0 sigma1 : BitVec w → BitVec w) (ws : List (BitVec w)) : BitVec w :=
  sigma1 (wordBack ws 2) + wordBack ws 7 + sigma0 (wordBack ws 15) + wordBack ws 16

/-- `H[i] <- H[i] + (a, ..., h)[i]` (42_sha_functions.md R180, R184). -/
def Sha2Vars.add {w : Nat} (x y : Sha2Vars w) : Sha2Vars w :=
  { a := x.a + y.a, b := x.b + y.b, c := x.c + y.c, d := x.d + y.d
    e := x.e + y.e, f := x.f + y.f, g := x.g + y.g, h := x.h + y.h }

/-- The digest bytes: the hash words in order, each most significant byte first (42_sha_functions.md R185). -/
def Sha2Vars.bytes {w : Nat} (x : Sha2Vars w) : List Byte :=
  [x.a, x.b, x.c, x.d, x.e, x.f, x.g, x.h].flatMap fun y => beBytes (w / 8) y.toNat

/-! ### SHA-256 (R177 to R180) -/

/-- Sigma0 of SHA-256 (42_sha_functions.md R177). -/
def sha256BigSigma0 (x : BitVec 32) : BitVec 32 := rotr 2 x ^^^ rotr 13 x ^^^ rotr 22 x

/-- Sigma1 of SHA-256 (42_sha_functions.md R177). -/
def sha256BigSigma1 (x : BitVec 32) : BitVec 32 := rotr 6 x ^^^ rotr 11 x ^^^ rotr 25 x

/-- sigma0 of SHA-256 (42_sha_functions.md R177). -/
def sha256Sigma0 (x : BitVec 32) : BitVec 32 := rotr 7 x ^^^ rotr 18 x ^^^ shr 3 x

/-- sigma1 of SHA-256 (42_sha_functions.md R177). -/
def sha256Sigma1 (x : BitVec 32) : BitVec 32 := rotr 17 x ^^^ rotr 19 x ^^^ shr 10 x

/-- K256[0..63] (42_sha_functions.md R178). -/
def sha256K : List (BitVec 32) :=
  [0x428a2f98, 0x71374491, 0xb5c0fbcf, 0xe9b5dba5, 0x3956c25b, 0x59f111f1, 0x923f82a4, 0xab1c5ed5]
    ++ [0xd807aa98, 0x12835b01, 0x243185be, 0x550c7dc3, 0x72be5d74, 0x80deb1fe, 0x9bdc06a7, 0xc19bf174]
    ++ [0xe49b69c1, 0xefbe4786, 0x0fc19dc6, 0x240ca1cc, 0x2de92c6f, 0x4a7484aa, 0x5cb0a9dc, 0x76f988da]
    ++ [0x983e5152, 0xa831c66d, 0xb00327c8, 0xbf597fc7, 0xc6e00bf3, 0xd5a79147, 0x06ca6351, 0x14292967]
    ++ [0x27b70a85, 0x2e1b2138, 0x4d2c6dfc, 0x53380d13, 0x650a7354, 0x766a0abb, 0x81c2c92e, 0x92722c85]
    ++ [0xa2bfe8a1, 0xa81a664b, 0xc24b8b70, 0xc76c51a3, 0xd192e819, 0xd6990624, 0xf40e3585, 0x106aa070]
    ++ [0x19a4c116, 0x1e376c08, 0x2748774c, 0x34b0bcb5, 0x391c0cb3, 0x4ed8aa4a, 0x5b9cca4f, 0x682e6ff3]
    ++ [0x748f82ee, 0x78a5636f, 0x84c87814, 0x8cc70208, 0x90befffa, 0xa4506ceb, 0xbef9a3f7, 0xc67178f2]

/-- The SHA-256 initial hash value (42_sha_functions.md R179). -/
def sha256Init : Sha2Vars 32 :=
  { a := 0x6a09e667, b := 0xbb67ae85, c := 0x3c6ef372, d := 0xa54ff53a
    e := 0x510e527f, f := 0x9b05688c, g := 0x1f83d9ab, h := 0x5be0cd19 }

/-- One block of SHA-256: 64 rounds and the addition to the hash words (42_sha_functions.md R180). -/
def sha256Block (h : Sha2Vars 32) (m : List (BitVec 32)) : Sha2Vars 32 :=
  h.add ((sha256K.zip (schedule (sha2Next sha256Sigma0 sha256Sigma1) 48 m)).foldl
    (sha2Round sha256BigSigma0 sha256BigSigma1) h)

/-- SHA256(M), 32 bytes (42_sha_functions.md R180). -/
def sha256 (m : List Byte) : List Byte := ((messageBlocks 32 64 (pad512 m)).foldl sha256Block sha256Init).bytes

/-! ### SHA-512 (R181 to R184) -/

/-- Sigma0 of SHA-512 (42_sha_functions.md R181). -/
def sha512BigSigma0 (x : BitVec 64) : BitVec 64 := rotr 28 x ^^^ rotr 34 x ^^^ rotr 39 x

/-- Sigma1 of SHA-512 (42_sha_functions.md R181). -/
def sha512BigSigma1 (x : BitVec 64) : BitVec 64 := rotr 14 x ^^^ rotr 18 x ^^^ rotr 41 x

/-- sigma0 of SHA-512 (42_sha_functions.md R181). -/
def sha512Sigma0 (x : BitVec 64) : BitVec 64 := rotr 1 x ^^^ rotr 8 x ^^^ shr 7 x

/-- sigma1 of SHA-512 (42_sha_functions.md R181). -/
def sha512Sigma1 (x : BitVec 64) : BitVec 64 := rotr 19 x ^^^ rotr 61 x ^^^ shr 6 x

/-- K512[0..79] (42_sha_functions.md R182). -/
def sha512K : List (BitVec 64) :=
  [0x428a2f98d728ae22, 0x7137449123ef65cd, 0xb5c0fbcfec4d3b2f, 0xe9b5dba58189dbbc, 0x3956c25bf348b538]
    ++ [0x59f111f1b605d019, 0x923f82a4af194f9b, 0xab1c5ed5da6d8118, 0xd807aa98a3030242, 0x12835b0145706fbe]
    ++ [0x243185be4ee4b28c, 0x550c7dc3d5ffb4e2, 0x72be5d74f27b896f, 0x80deb1fe3b1696b1, 0x9bdc06a725c71235]
    ++ [0xc19bf174cf692694, 0xe49b69c19ef14ad2, 0xefbe4786384f25e3, 0x0fc19dc68b8cd5b5, 0x240ca1cc77ac9c65]
    ++ [0x2de92c6f592b0275, 0x4a7484aa6ea6e483, 0x5cb0a9dcbd41fbd4, 0x76f988da831153b5, 0x983e5152ee66dfab]
    ++ [0xa831c66d2db43210, 0xb00327c898fb213f, 0xbf597fc7beef0ee4, 0xc6e00bf33da88fc2, 0xd5a79147930aa725]
    ++ [0x06ca6351e003826f, 0x142929670a0e6e70, 0x27b70a8546d22ffc, 0x2e1b21385c26c926, 0x4d2c6dfc5ac42aed]
    ++ [0x53380d139d95b3df, 0x650a73548baf63de, 0x766a0abb3c77b2a8, 0x81c2c92e47edaee6, 0x92722c851482353b]
    ++ [0xa2bfe8a14cf10364, 0xa81a664bbc423001, 0xc24b8b70d0f89791, 0xc76c51a30654be30, 0xd192e819d6ef5218]
    ++ [0xd69906245565a910, 0xf40e35855771202a, 0x106aa07032bbd1b8, 0x19a4c116b8d2d0c8, 0x1e376c085141ab53]
    ++ [0x2748774cdf8eeb99, 0x34b0bcb5e19b48a8, 0x391c0cb3c5c95a63, 0x4ed8aa4ae3418acb, 0x5b9cca4f7763e373]
    ++ [0x682e6ff3d6b2b8a3, 0x748f82ee5defb2fc, 0x78a5636f43172f60, 0x84c87814a1f0ab72, 0x8cc702081a6439ec]
    ++ [0x90befffa23631e28, 0xa4506cebde82bde9, 0xbef9a3f7b2c67915, 0xc67178f2e372532b, 0xca273eceea26619c]
    ++ [0xd186b8c721c0c207, 0xeada7dd6cde0eb1e, 0xf57d4f7fee6ed178, 0x06f067aa72176fba, 0x0a637dc5a2c898a6]
    ++ [0x113f9804bef90dae, 0x1b710b35131c471b, 0x28db77f523047d84, 0x32caab7b40c72493, 0x3c9ebe0a15c9bebc]
    ++ [0x431d67c49c100d4c, 0x4cc5d4becb3e42b6, 0x597f299cfc657e2a, 0x5fcb6fab3ad6faec, 0x6c44198c4a475817]

/-- The SHA-512 initial hash value (42_sha_functions.md R183). -/
def sha512Init : Sha2Vars 64 :=
  { a := 0x6a09e667f3bcc908, b := 0xbb67ae8584caa73b, c := 0x3c6ef372fe94f82b, d := 0xa54ff53a5f1d36f1
    e := 0x510e527fade682d1, f := 0x9b05688c2b3e6c1f, g := 0x1f83d9abfb41bd6b, h := 0x5be0cd19137e2179 }

/-- One block of SHA-512: 80 rounds and the addition to the hash words (42_sha_functions.md R184). -/
def sha512Block (h : Sha2Vars 64) (m : List (BitVec 64)) : Sha2Vars 64 :=
  h.add ((sha512K.zip (schedule (sha2Next sha512Sigma0 sha512Sigma1) 64 m)).foldl
    (sha2Round sha512BigSigma0 sha512BigSigma1) h)

/-- SHA512(M), 64 bytes (42_sha_functions.md R184). -/
def sha512 (m : List Byte) : List Byte := ((messageBlocks 64 128 (pad1024 m)).foldl sha512Block sha512Init).bytes

/-- `H_alg(M)` (42_sha_functions.md R170). -/
def hashBytes : HashAlg → List Byte → List Byte
  | .sha1 => sha1
  | .sha256 => sha256
  | .sha512 => sha512

end Sys2Proof.Machine
end

