-- ==== Sys2Proof/Machine/Hmac.lean ====
section
/-! DEFINITION. The HMAC engine: HMAC (41_hmac.md). -/

namespace Sys2Proof.Machine

/-- `zeros(n)`, n bytes of 0x00 (41_hmac.md R151). -/
def zeros (n : Nat) : List Byte := List.replicate n 0x00

/-- `K0(key)`: a key longer than B is hashed first; both are padded with zero bytes to B (41_hmac.md R151). -/
def keyBlock (alg : HashAlg) (key : List Byte) : List Byte :=
  if key.length > blockLen alg then hashBytes alg key ++ zeros (blockLen alg - digestLen alg)
  else key ++ zeros (blockLen alg - key.length)

/-- `ipad`, B bytes of 0x36 (41_hmac.md R152). -/
def ipad (alg : HashAlg) : List Byte := List.replicate (blockLen alg) 0x36

/-- `opad`, B bytes of 0x5C (41_hmac.md R152). -/
def opad (alg : HashAlg) : List Byte := List.replicate (blockLen alg) 0x5C

/-- `x XOR y`, bytewise (41_hmac.md R152). -/
def xorBytes (x y : List Byte) : List Byte := x.zipWith (· ^^^ ·) y

/-- `HMAC_alg(key, msg)` (41_hmac.md R153). -/
def hmac (alg : HashAlg) (key msg : List Byte) : List Byte :=
  hashBytes alg (xorBytes (keyBlock alg key) (opad alg) ++ hashBytes alg (xorBytes (keyBlock alg key) (ipad alg) ++ msg))

/-- The DIGEST window after HMAC: the digest in its first L(alg) bytes, 0x00 in the others (41_hmac.md R155). -/
def digestWindow (alg : HashAlg) (dig : List Byte) : Vector Byte 64 :=
  Vector.ofFn fun i => if i.val < digestLen alg then dig.getD i.val 0x00 else 0x00

/-- `exec_HMAC` (41_hmac.md R150). The reserved ALG never reaches it: the check precedes it (60_exceptions.md R254). -/
def hmacEffect (b : Block) : Block :=
  match hashAlgOf b.ctrl.alg with
  | some alg => { b with digest := digestWindow alg (hmac alg (keyOf b) (messageOf b)) }
  | none => b

/-- HMAC (41_hmac.md R150). -/
def execHmac (s : State) : Outcome := command .hmac hmacEffect s

end Sys2Proof.Machine
end

