-- ==== Sys2Proof/Machine/Reduce.lean ====
section
/-! DEFINITION. The modular reduction to decimal: REDUCE (44_decimal_reduction.md). -/

namespace Sys2Proof.Machine

/-- `binary mod 10^d`, by the exact natural 10^d (44_decimal_reduction.md R216). -/
def codeValue (binary d : Nat) : Nat := binary % 10 ^ d

/-- Decimal digit i of the code, digit 0 the least significant (10_state.md R41, 44_decimal_reduction.md R215). -/
def decimalDigit (code i : Nat) : Nat := code / 10 ^ i % 10

/-- Decimal digit i as a nibble (44_decimal_reduction.md R217). -/
def digitNibble (code i : Nat) : BitVec 4 := BitVec.ofNat 4 (decimalDigit code i)

/-- CODE_BCD_LO: digits 7 to 0 (10_state.md R41). -/
def bcdLow (code : Nat) : Word :=
  digitNibble code 7 ++ digitNibble code 6 ++ digitNibble code 5 ++ digitNibble code 4
    ++ digitNibble code 3 ++ digitNibble code 2 ++ digitNibble code 1 ++ digitNibble code 0

/-- CODE_BCD_HI bits 7:0: digits 9 and 8 (10_state.md R41). -/
def bcdHigh (code : Nat) : BitVec 8 := digitNibble code 9 ++ digitNibble code 8

/-- ASCII[j] of a d-digit code: the digit character, the most significant first, then 0x00 (44_decimal_reduction.md
R218). -/
def asciiByte (code d j : Nat) : Byte :=
  if j < d then BitVec.ofNat 8 (0x30 + decimalDigit code (d - 1 - j)) else 0x00

/-- The CODE_ASCII window of a d-digit code (44_decimal_reduction.md R218). -/
def asciiWindow (code d : Nat) : Vector Byte 16 := Vector.ofFn fun j => asciiByte code d j.val

/-- `exec_REDUCE` (44_decimal_reduction.md R215). -/
def reduceEffect (b : Block) : Block :=
  let code := codeValue (binaryOf b) (digitsOf b)
  { b with
    code := BitVec.ofNat 32 code
    bcdLo := bcdLow code
    bcdHi := bcdHigh code
    ascii := asciiWindow code (digitsOf b) }

/-- REDUCE (44_decimal_reduction.md R215). -/
def execReduce (s : State) : Outcome := command .reduce reduceEffect s

end Sys2Proof.Machine
end

