-- ==== Sys2Proof/Machine/Trunc.lean ====
section
/-! DEFINITION. The dynamic truncation unit: TRUNC (43_truncation.md). -/

namespace Sys2Proof.Machine

/-- The low nibble of the final digest byte, DIGEST[L-1] & 0x0F (43_truncation.md R201). -/
def truncOffset (alg : HashAlg) (b : Block) : BitVec 4 := (digestByte b (digestLen alg - 1)).extractLsb' 0 4

/-- The four bytes from `off`, big-endian, the first masked with 0x7F (43_truncation.md R202). -/
def truncWindow (off : Nat) (b : Block) : Word :=
  (digestByte b off &&& 0x7F) ++ digestByte b (off + 1) ++ digestByte b (off + 2) ++ digestByte b (off + 3)

/-- `exec_TRUNC` (43_truncation.md R200). The reserved ALG never reaches it (60_exceptions.md R254). -/
def truncEffect (b : Block) : Block :=
  match hashAlgOf b.ctrl.alg with
  | some alg => { b with offset := truncOffset alg b, binary := truncWindow (truncOffset alg b).toNat b }
  | none => b

/-- TRUNC (43_truncation.md R200). -/
def execTrunc (s : State) : Outcome := command .trunc truncEffect s

end Sys2Proof.Machine
end

