-- ==== Sys2Proof/Machine/Composite.lean ====
section
/-! DEFINITION. The composite commands HOTP and TOTP and the key control ZEROIZE (45_composite_and_key.md). -/

namespace Sys2Proof.Machine

/-- `exec_HOTP`: HMAC, then TRUNC, then REDUCE, each on the outputs of the one before (45_composite_and_key.md R230,
R233). -/
def hotpEffect (b : Block) : Block := reduceEffect (truncEffect (hmacEffect b))

/-- HOTP (45_composite_and_key.md R230). -/
def execHotp (s : State) : Outcome := command .hotp hotpEffect s

/-- `exec_TOTP`: CONV, then HOTP on the COUNTER just written (45_composite_and_key.md R231, R233). -/
def totpEffect (b : Block) : Block := hotpEffect (convEffect b)

/-- TOTP (45_composite_and_key.md R231). -/
def execTotp (s : State) : Outcome := command .totp totpEffect s

/-- `exec_ZEROIZE`: KEY[0..255] <- 0x00, KEYLEN.LEN <- 0 (45_composite_and_key.md R232). -/
def zeroizeEffect (b : Block) : Block := { b with key := Vector.replicate 256 0x00, keylen := 0 }

/-- ZEROIZE (45_composite_and_key.md R232). -/
def execZeroize (s : State) : Outcome := command .zeroize zeroizeEffect s

end Sys2Proof.Machine
end

