-- ==== Sys2Proof/Machine/Bus.lean ====
section
/-! DEFINITION. The machine's four kinds of step: a host bus read, a host bus write (the CMD write among them), an
engine completion, and a reset (00_scope.md R12); and the platform's view of the interrupt. -/

namespace Sys2Proof.Machine

/-- `BusRead(off)`: the word goes to the host and no state of the block changes (20_memory.md R80). -/
def busRead (off : BitVec 12) (s : State) : Outcome := .next { s with readData := some (busReadWord off s.block) }

/-- `cmd_write(w)` (60_exceptions.md R255), in R258's order of precedence: overrun while BUSY, whatever the word; then
ILLEGAL_COMMAND; then the command's own checks and acceptance. -/
def cmdWrite (w : Word) (s : State) : Outcome :=
  if s.block.status.busy then .next (s.withBlock (setOverrun s.block))
  else match decode w with
    | .error (.illegalCommand op) => .next (s.withBlock (rejectIllegal op s.block))
    | .ok i => exec i s

/-- A write to an input register: stored while idle, dropped with OVERRUN while BUSY (20_memory.md R81). -/
def inputWrite (r : Reg) (w : Word) (b : Block) : Block :=
  if b.status.busy then setOverrun b else storeInput w b r

/-- What a write of `w` does to the block where it is no CMD write: STATUS and IRQ_EN are accepted even while BUSY;
a write to a read-only or reserved offset is ignored and never sets OVERRUN (20_memory.md R81, R72). -/
def registerWrite (off : BitVec 12) (w : Word) (b : Block) : Block :=
  match regAt off with
  | some .status => writeStatus w b
  | some .irqEn => writeIrqEn w b
  | some r => if isInput r then inputWrite r w b else b
  | none => b

/-- `BusWrite(off, w)` (20_memory.md R81). -/
def busWrite (off : BitVec 12) (w : Word) (s : State) : Outcome :=
  if regAt off = some .cmd then cmdWrite w s else .next (s.withBlock (registerWrite off w s.block))

/-- The engine's turn (10_state.md R46): while BUSY it completes the command in PEND_OP; while idle the completion is not
enabled and nothing happens (DESIGN CHOICE, log entry 3, safe). BUSY with an illegal PEND_OP never occurs (R46; DEDUCED,
log entry 6, safe). -/
def engineTurn (s : State) : Outcome :=
  if s.block.status.busy then
    match ofOpcode s.block.pendOp with
    | some i => exec i s
    | none => .fault .engineIllegalOp
  else .next s

/-- The reset step (70_reset_and_hazards.md R280): every register takes its reset value and a pending command is
abandoned. What the platform and the host do later is not the block's state and stays in the agenda. -/
def resetStep (s : State) : Outcome := .next (s.withBlock Block.reset)

/-- One atomic step (00_scope.md R12). -/
def runEvent (e : Event) (s : State) : Outcome :=
  match e with
  | .read off => busRead off s
  | .write off w => busWrite off w s
  | .engine => engineTurn s
  | .reset => resetStep s

/-- The port takes its next pending step; a read's answer lasts one step. -/
def advance (rest : List Event) (s : State) : State := { s with agenda := rest, readData := none }

/-- The next step of the machine: the first of the agenda; when nothing is pending at the port, the engine's turn, which
completes a pending command (the weak fairness of 70_reset_and_hazards.md R292; DESIGN CHOICE, log entry 2, unsafe) and
otherwise holds the registers (60_exceptions.md R270). -/
def nextStep (s : State) : Outcome :=
  match s.agenda with
  | [] => engineTurn (advance [] s)
  | e :: rest => runEvent e (advance rest s)

/-- The idle block: no command pending (10_state.md R21, R45). -/
def idle (b : Block) : Block := { b with status := { b.status with busy := false }, pendOp := 0 }

/-- The machine whose next step is the CMD write of `w` in the idle block, every other register and every later step as
in `s`. -/
def placeCommand (w : Word) (s : State) : State :=
  { s with block := idle s.block, agenda := .write Reg.cmd.off w :: s.agenda }

/-- The level the block drives on interrupt input `line` of the platform (60_exceptions.md R262, IRQ_LINE). -/
def drivesIrqLine (line : Nat) (b : Block) : Bool := line = Config.irqLine && irq b

/-- The step a host read of address `addr` is at this block's port; none when it reaches another device
(20_memory.md R70). -/
def hostReadEvent (addr : Nat) : Option Event := (windowOffset addr).map .read

/-- The step a host write of address `addr` is at this block's port; none when it reaches another device
(20_memory.md R70). -/
def hostWriteEvent (addr : Nat) (w : Word) : Option Event := (windowOffset addr).map fun off => .write off w

end Sys2Proof.Machine
end

