-- ==== Sys2Proof/Machine/Step.lean ====
section
/-! DEFINITION. The step function, and where it takes its next command from. -/

namespace Sys2Proof.Machine

/-- One step of the machine (00_scope.md R12). -/
def step (s : State) : Host.Outcome State Fault Refusal := nextStep s

/-- `s` with a command word placed where the next step takes its command from: the block fetches nothing (10_state.md
R21), "the next command is whatever opcode the host next writes to CMD", so the CMD write stands first in the agenda and
the block is idle. DESIGN CHOICE (log entry 8). -/
def State.withFetchWord (s : State) (nbits w : Nat) : State := placeCommand (tableWord nbits w) s

end Sys2Proof.Machine
end

