-- ==== Sys2Proof/Machine/HostProgram.lean ====
section
/-! DEFINITION. The host's program notation (30_encoding.md R111, R112), its well-formedness, and the host agent that
runs such a program against the machine (70_reset_and_hazards.md R293). The block sees only the transactions. -/

namespace Sys2Proof.Machine

/-! ### Statements (R111) -/

/-- What `WR` and `RD` name: a register (30_encoding.md R111), or a bare offset, reserved or unaligned, as in the vectors
V-BUS-2, V-BUS-7 and V-OVR-7 of 95_test_vectors.md. -/
inductive Place where
  | reg (r : Reg)
  | off (o : BitVec 12)
  deriving DecidableEq, Repr

/-- The offset a place's transaction carries. -/
def Place.offset : Place → BitVec 12
  | .reg r => r.off
  | .off o => o

/-- The base statements and the host's control flow (30_encoding.md R111). -/
inductive Stmt where
  | wr (p : Place) (value : Word)
  | rd (p : Place)
  | cmd (i : Instr)
  | label (name : String)
  | bit1 (p : Place) (bit : Nat) (target : String)
  deriving DecidableEq, Repr

/-- The one bus transaction of a base statement; labels and BIT1 cause none (30_encoding.md R111). -/
def Stmt.transaction : Stmt → Option Event
  | .wr p v => some (.write p.offset v)
  | .rd p => some (.read p.offset)
  | .cmd i => some (.write Reg.cmd.off (encode i))
  | .label _ => none
  | .bit1 _ _ _ => none

/-! ### Pseudo-instructions (R112) -/

/-- The pseudo-instructions of 30_encoding.md R112. `wait` and `run` take the fresh label of their loop. -/
inductive Pseudo where
  | base (st : Stmt)
  | wr64Time (v : BitVec 64)
  | wr64Counter (v : BitVec 64)
  | config (alg : BitVec 2) (d : BitVec 4)
  | loadKey (bytes : List Byte)
  | wait (w : String)
  | run (i : Instr) (w : String)
  | rd64Counter
  | rdCode
  deriving DecidableEq, Repr

/-- `WAIT`: `w: RD STATUS ; BIT1 STATUS, 0, w` (30_encoding.md R112). -/
def waitLoop (w : String) : List Stmt := [.label w, .rd (.reg .status), .bit1 (.reg .status) 0 w]

/-- The word `{b4k, b4k+1, b4k+2, b4k+3}` of a key, missing bytes 0x00 (30_encoding.md R112). -/
def keyWord (bytes : List Byte) (k : Nat) : Word :=
  bytes.getD (4 * k) 0 ++ bytes.getD (4 * k + 1) 0 ++ bytes.getD (4 * k + 2) 0 ++ bytes.getD (4 * k + 3) 0

/-- The expansion of a pseudo-instruction (30_encoding.md R112). -/
def Pseudo.expand : Pseudo → List Stmt
  | .base st => [st]
  | .wr64Time v => [.wr (.reg .timeLo) (v.extractLsb' 0 32), .wr (.reg .timeHi) (v.extractLsb' 32 32)]
  | .wr64Counter v => [.wr (.reg .counterLo) (v.extractLsb' 0 32), .wr (.reg .counterHi) (v.extractLsb' 32 32)]
  | .config alg d => [.wr (.reg .ctrl) ((d.setWidth 32 <<< 4) ||| alg.setWidth 32)]
  | .loadKey bytes =>
    .wr (.reg .keylen) (BitVec.ofNat 32 bytes.length) ::
      (List.range ((bytes.length + 3) / 4)).map fun k => .wr (.off (BitVec.ofNat 12 (0x200 + 4 * k))) (keyWord bytes k)
  | .wait w => waitLoop w
  | .run i w => .cmd i :: waitLoop w
  | .rd64Counter => [.rd (.reg .counterLo), .rd (.reg .counterHi)]
  | .rdCode =>
    [.rd (.reg .code), .rd (.reg (.codeAscii 0)), .rd (.reg (.codeAscii 1)), .rd (.reg (.codeAscii 2))]

/-- A program's base statements. -/
def assemble (program : List Pseudo) : List Stmt := program.flatMap Pseudo.expand

/-! ### Well-formed programs -/

/-- The labels a program defines, in order. -/
def labelsOf (program : List Stmt) : List String :=
  program.filterMap fun st => match st with
    | .label n => some n
    | .wr _ _ => none
    | .rd _ => none
    | .cmd _ => none
    | .bit1 _ _ _ => none

/-- A BIT1 tests one of 32 bits and branches to a label of the program. -/
def Stmt.wellFormedIn (program : List Stmt) : Stmt → Bool
  | .bit1 _ bit target => bit < 32 && (labelsOf program).contains target
  | .wr _ _ => true
  | .rd _ => true
  | .cmd i => i.wellFormed
  | .label _ => true

/-- A program is well formed when its labels differ and every statement is well formed in it. -/
def wellFormedProgram (program : List Stmt) : Bool :=
  decide (labelsOf program).Nodup && program.all (Stmt.wellFormedIn program)

/-- A LOADKEY fits the KEY buffer (45_composite_and_key.md R234: "requires len(secret) <= 256"). -/
def Pseudo.wellFormed : Pseudo → Bool
  | .loadKey bytes => decide (bytes.length ≤ keyBufBytes)
  | .base _ => true
  | .wr64Time _ => true
  | .wr64Counter _ => true
  | .config _ _ => true
  | .wait _ => true
  | .run i _ => i.wellFormed
  | .rd64Counter => true
  | .rdCode => true

/-! ### The host agent -/

/-- The host: its program, the statement it stands at, and the last value read at each offset, newest first. -/
structure Master where
  program : List Stmt
  position : Nat
  seen : List (BitVec 12 × Word)
  deriving DecidableEq, Repr

/-- The host and the machine it drives: the only master of the port (70_reset_and_hazards.md R293). -/
structure System where
  master : Master
  machine : State
  deriving DecidableEq, Repr

/-- The machine's step on one event at its port; none where the machine stops. -/
def System.portStep (y : System) (e : Event) : Option State :=
  match step { y.machine with agenda := [e] } with
  | .next s => some s
  | .fault _ => none
  | .refused _ => none

/-- The host moves to statement `n`. -/
def Master.goto (m : Master) (n : Nat) : Master := { m with position := n }

/-- The host keeps the word a read answered. -/
def Master.note (m : Master) (off : BitVec 12) : Option Word → Master
  | some w => { m with seen := (off, w) :: m.seen }
  | none => m

/-- The value last read at an offset, the offset as the RD spelled it. 30_encoding.md R111 does not say whether a RD at a
bare offset with bits 1:0 set (RD 0x02A, which reaches STATUS) is a read of that register for BIT1: here it is not.
DESIGN CHOICE (log entry 20), unsafe. -/
def Master.lastRead (m : Master) (off : BitVec 12) : Option Word := (m.seen.find? fun x => x.1 == off).map Prod.snd

/-- A transaction of the host, which then stands at its next statement. -/
def System.transact (y : System) (off : BitVec 12) (e : Event) : Option System :=
  (y.portStep e).map fun s =>
    { master := (y.master.note off s.readData).goto (y.master.position + 1), machine := s }

/-- The host's turn: one statement (30_encoding.md R111). None at the program's end, and where the spec gives the host
nothing to do: a BIT1 on a place not read before, a branch to no label (DESIGN CHOICE, log entry 17, safe). -/
def System.hostTurn (y : System) : Option System :=
  match y.master.program[y.master.position]? with
  | none => none
  | some (.wr p v) => y.transact p.offset (.write p.offset v)
  | some (.rd p) => y.transact p.offset (.read p.offset)
  | some (.cmd i) => y.transact Reg.cmd.off (.write Reg.cmd.off (encode i))
  | some (.label _) => some { y with master := y.master.goto (y.master.position + 1) }
  | some (.bit1 p bit target) =>
    match y.master.lastRead p.offset with
    | none => none
    | some v =>
      if v.getLsbD bit then
        (y.master.program.findIdx? (fun st => st == .label target)).map fun n => { y with master := y.master.goto n }
      else some { y with master := y.master.goto (y.master.position + 1) }

/-- The engine's turn (10_state.md R46). -/
def System.engineTurn (y : System) : Option System := (y.portStep .engine).map fun s => { y with machine := s }

/-- Who moves next: the moment of a completion is the schedule's, not the host's (70_reset_and_hazards.md R292). -/
inductive Turn where
  | host
  | engine
  deriving DecidableEq, Repr

/-- The system after a schedule of turns; none where a turn has no step. -/
def System.run : List Turn → System → Option System
  | [], y => some y
  | .host :: ts, y => y.hostTurn.bind (System.run ts)
  | .engine :: ts, y => y.engineTurn.bind (System.run ts)

/-- The run has ended: the last statement has executed and STATUS.BUSY = 0 (70_reset_and_hazards.md R293). -/
def System.ended (y : System) : Bool :=
  decide (y.master.program.length ≤ y.master.position) && !y.machine.block.status.busy

/-- A program about to run from the reset state (70_reset_and_hazards.md R282). -/
def System.start (program : List Stmt) : System :=
  { master := { program := program, position := 0, seen := [] }, machine := State.reset }

end Sys2Proof.Machine
end

