-- ==== Sys2Proof/Safety.lean ====
section
/-! DEFINITION. What the claims are stated in: the legal states of the block (the invariant), runs of several steps, and
states that differ in the secret alone. -/

namespace Sys2Proof.Machine

/-! ### Legal states -/

/-- While BUSY, PEND_OP holds the opcode of a command whose checks pass, DONE is clear and ERRINFO names that command with
no error; while idle PEND_OP is 0 (10_state.md R31, R32, R36, R45, R46; 60_exceptions.md R255). -/
def Block.pendingLegal (b : Block) : Prop :=
  if b.status.busy then
    ∃ i : Instr, b.pendOp = opcode i ∧ checks i b = 0 ∧ b.status.done = false ∧
      b.errInfo = { op := opcode i, cause := 0, code := codeNone }
  else b.pendOp = 0

/-- ERRINFO holds only what the spec produces: CODE is NONE, INVALID_PARAMETER or ILLEGAL_COMMAND, and CAUSE is nonzero
exactly when CODE is INVALID_PARAMETER (10_state.md R36, 60_exceptions.md R251, R253). -/
def Block.errInfoLegal (b : Block) : Prop :=
  (b.errInfo.code = codeNone ∨ b.errInfo.code = codeInvalidParameter ∨ b.errInfo.code = codeIllegalCommand) ∧
    (b.errInfo.cause ≠ 0 ↔ b.errInfo.code = codeInvalidParameter)

/-- The three formats of the code agree: BCD holds the ten decimal digits of CODE, and ASCII is either still at its reset
value or the zero-padded numeral of CODE in some legal number of digits (10_state.md R41, R42). -/
def Block.codeConsistent (b : Block) : Prop :=
  b.bcdLo = bcdLow b.code.toNat ∧ b.bcdHi = bcdHigh b.code.toNat ∧
    ((b.code = 0 ∧ b.ascii = Vector.replicate 16 0x00) ∨
      ∃ d, 6 ≤ d ∧ d ≤ 10 ∧ b.code.toNat < 10 ^ d ∧ b.ascii = asciiWindow b.code.toNat d)

/-- The legal states of the block. -/
def Block.Legal (b : Block) : Prop := b.pendingLegal ∧ b.errInfoLegal ∧ b.codeConsistent

/-- The invariant of the machine: its block is legal, whatever stands at the port. -/
def State.Legal (s : State) : Prop := s.block.Legal

/-! ### Runs -/

/-- `t` is the state after `n` steps from `s`. -/
def RunsTo (n : Nat) (s t : State) : Prop := Sys2Proof.core.run n s = .next t

/-- `s` with the steps `es` pending at the port. -/
def State.withAgenda (s : State) (es : List Event) : State := { s with agenda := es }

/-- A host bus transaction: neither an engine's turn nor a reset. -/
def Event.isBus : Event → Bool
  | .read _ => true
  | .write _ _ => true
  | .engine => false
  | .reset => false

/-- The CMD write of a command as the host writes it. -/
def commandEvent (i : Instr) : Event := .write Reg.cmd.off (encode i)

/-! ### The secret -/

/-- The block with another secret buffer. -/
def Block.withKey (b : Block) (k : Vector Byte 256) : Block := { b with key := k }

/-- The machine with another secret buffer. -/
def State.withKey (s : State) (k : Vector Byte 256) : State := { s with block := s.block.withKey k }

/-- The commands whose results depend on the secret: HMAC, HOTP and TOTP (30_encoding.md R104). -/
def usesKey (op : BitVec 4) : Bool := op = 0x2 || op = 0x5 || op = 0x6

/-! ### What a command may change -/

/-- The two blocks agree on every register a host can write and no command writes: CTRL, PERIOD, TIME and IRQ_EN. -/
def Block.sameSettings (b c : Block) : Prop :=
  b.ctrl = c.ctrl ∧ b.period = c.period ∧ b.timeLo = c.timeLo ∧ b.timeHi = c.timeHi ∧ b.irqEn = c.irqEn

/-- The two blocks agree on every input register (the set INPUTS of 20_memory.md R81). -/
def Block.sameInputs (b c : Block) : Prop :=
  b.ctrl = c.ctrl ∧ b.period = c.period ∧ b.timeLo = c.timeLo ∧ b.timeHi = c.timeHi ∧ b.counterLo = c.counterLo ∧
    b.counterHi = c.counterHi ∧ b.keylen = c.keylen ∧ b.binary = c.binary ∧ b.digest = c.digest ∧ b.key = c.key

/-! ### What a result register holds, in the spec's own arithmetic -/

/-- Byte i of a window, as a natural. -/
def byteAt {n : Nat} (v : Vector Byte n) (i : Nat) : Nat := (v.toList.getD i 0).toNat

/-- DIGEST holds the L(alg) bytes of `dig`, byte 0 first, and 0x00 in every byte from L to 63 (41_hmac.md R155). -/
def HoldsDigest (alg : HashAlg) (dig : List Byte) (v : Vector Byte 64) : Prop :=
  ∀ i, i < 64 → byteAt v i = if i < digestLen alg then (dig.getD i 0).toNat else 0

/-- `off` and `bin` are the truncation offset and the 31-bit value of a digest of `len` bytes (43_truncation.md R201,
R202): the low nibble of the last byte, and the four bytes from there, the first without its top bit. -/
def Truncates (len : Nat) (v : Vector Byte 64) (off : BitVec 4) (bin : Word) : Prop :=
  off.toNat = byteAt v (len - 1) % 16 ∧
    bin.toNat = (byteAt v off.toNat % 128) * 2 ^ 24 + byteAt v (off.toNat + 1) * 2 ^ 16 +
      byteAt v (off.toNat + 2) * 2 ^ 8 + byteAt v (off.toNat + 3)

/-- The code registers of `b` show `binary mod 10^d` in binary, BCD and ASCII (44_decimal_reduction.md R215): digit i is
`(code div 10^i) mod 10`. -/
def ShowsCode (binary d : Nat) (b : Block) : Prop :=
  b.code.toNat = binary % 10 ^ d ∧
    (∀ i, i < 8 → (b.bcdLo.extractLsb' (4 * i) 4).toNat = binary % 10 ^ d / 10 ^ i % 10) ∧
    (∀ i, i < 2 → (b.bcdHi.extractLsb' (4 * i) 4).toNat = binary % 10 ^ d / 10 ^ (8 + i) % 10) ∧
    (∀ j, j < 16 → byteAt b.ascii j = if j < d then 0x30 + binary % 10 ^ d / 10 ^ (d - 1 - j) % 10 else 0)

end Sys2Proof.Machine
end

