-- ==== Sys2Proof/Certificates/Slice0/Obligations.lean ====
section
/-! DEFINITION. The statements for the provers: one definition `Obligations.<Name> : Prop` each, listed in
OBLIGATIONS.json. -/

open Sys2Proof Sys2Proof.Machine

/-! ### Reset and the invariant -/

/-- 10_state.md R50: the reset state, register by register, with the interrupt output 0. The two port fields are the
model's own (log entries 1 and 4) and are not claimed here. -/
def Obligations.ResetStateHoldsTheResetValues : Prop :=
  let b := State.reset.block
  (b.ctrl.digits = 6 ∧ b.ctrl.alg = 0 ∧ busReadWord 0x008 b = 0x00000060 ∧ b.period = 0x0000001E ∧
    busReadWord 0x000 b = 0x544F5450 ∧ busReadWord 0x004 b = 0x00000001) ∧
    (b.timeLo = 0 ∧ b.timeHi = 0 ∧ b.counterLo = 0 ∧ b.counterHi = 0 ∧ b.keylen = 0) ∧
    (b.status.busy = false ∧ b.status.done = false ∧ b.status.err = false ∧ b.status.overrun = false) ∧
    (b.errInfo.op = 0 ∧ b.errInfo.cause = 0 ∧ b.errInfo.code = 0) ∧
    (b.irqEn.doneIe = false ∧ b.irqEn.errIe = false ∧ b.irqEn.ovrIe = false) ∧
    (b.offset = 0 ∧ b.binary = 0 ∧ b.code = 0 ∧ b.bcdLo = 0 ∧ b.bcdHi = 0 ∧ b.pendOp = 0) ∧
    (∀ i, i < 16 → byteAt b.ascii i = 0) ∧ (∀ i, i < 64 → byteAt b.digest i = 0) ∧
    (∀ i, i < 256 → byteAt b.key i = 0) ∧ irq b = false

/-- 70_reset_and_hazards.md R280: a reset step takes every register to its reset value, in every state, a pending command
included; the steps still pending at the port stay (log entry 9). -/
def Obligations.ResetStepAbandonsEverything : Prop :=
  ∀ (s : State) (rest : List Event), s.agenda = .reset :: rest →
    step s = .next { block := State.reset.block, agenda := rest, readData := none }

/-- The reset state is legal. -/
def Obligations.ResetStateIsLegal : Prop := State.reset.Legal

/-- The invariant: every step from a legal state leads to a legal state. -/
def Obligations.EveryStepKeepsLegality : Prop :=
  ∀ s t : State, s.Legal → step s = .next t → t.Legal

/-- 10_state.md R46 ("so no `exec_` function can fail"), 20_memory.md R79 ("No access traps or returns a bus error"): a
legal machine always has a next state. Two of the steps covered are the model's own, not the spec's: the engine's turn of an
idle block (log entry 3) and the step at a quiet port (log entry 2). -/
def Obligations.LegalMachineNeverStops : Prop :=
  ∀ s : State, s.Legal → ∃ t, step s = .next t

/-! ### Encoding -/

/-- 30_encoding.md R101: words written out from the opcode map, bits 31:4 all clear and all set. -/
def Obligations.WrittenOutWordsDecode : Prop :=
  decode 0b00000000000000000000000000000001#32 = .ok .conv ∧
    decode 0b00000000000000000000000000000010#32 = .ok .hmac ∧
    decode 0b11111111111111111111111111110011#32 = .ok .trunc ∧
    decode 0b00000000000000000000000000000100#32 = .ok .reduce ∧
    decode 0b00000000000000000000000000000101#32 = .ok .hotp ∧
    decode 0b11111111111111111111111111110110#32 = .ok .totp ∧
    decode 0b00000000000000000000000000000111#32 = .ok .zeroize ∧
    decode 0b11111111111111111111111111110000#32 = .error (.illegalCommand 0) ∧
    decode 0b00000000000000000000000000001000#32 = .error (.illegalCommand 8)

/-- 30_encoding.md R100, R101, R103, R108: decoding an encoded command gives it back whatever bits 31:4 are; a word that
decodes to a command is one of that command's encodings; a word is refused exactly when its OP is reserved, and the
refusal names the OP. -/
def Obligations.DecodeAndEncodeAgree : Prop :=
  (∀ (x : BitVec 28) (i : Instr), decode (encodeWith x i) = .ok i) ∧
    (∀ (w : Word) (i : Instr), decode w = .ok i → w = encodeWith (w.extractLsb' 4 28) i) ∧
    (∀ (w : Word) (op : BitVec 4),
      decode w = .error (.illegalCommand op) ↔ op = w.extractLsb' 0 4 ∧ (op.toNat = 0 ∨ 8 ≤ op.toNat))

/-- 30_encoding.md R103: a CMD word behaves exactly as the word with bits 31:4 clear, in every state. -/
def Obligations.IgnoredCommandBitsChangeNothing : Prop :=
  ∀ (s : State) (off : BitVec 12) (w : Word) (rest : List Event), off &&& 0xFFC = 0x024 →
    step { s with agenda := .write off w :: rest } = step { s with agenda := .write off (w &&& 0xF) :: rest }

/-! ### A step runs the decoded command -/

/-- 10_state.md R21, R30: when the next step is a CMD write of a word that decodes to `i` and the block is idle, the step
is `exec i` on the state whose agenda has moved on. -/
def Obligations.CommandWriteRunsDecodedCommand : Prop :=
  ∀ (s : State) (off : BitVec 12) (w : Word) (rest : List Event) (i : Instr),
    s.agenda = .write off w :: rest → off &&& 0xFFC = 0x024 → s.block.status.busy = false → decode w = .ok i →
    step s = exec i { s with agenda := rest, readData := none }

/-- 10_state.md R46: at the engine's turn, and when nothing is pending at the port (log entry 2), the step of a busy block
is `exec` of the command whose opcode PEND_OP holds. -/
def Obligations.EngineTurnRunsPendingCommand : Prop :=
  ∀ (s : State) (rest : List Event) (i : Instr),
    (s.agenda = .engine :: rest ∨ (s.agenda = [] ∧ rest = [])) → s.block.status.busy = true →
    s.block.pendOp = opcode i →
    step s = exec i { s with agenda := rest, readData := none }

/-! ### The CMD write: checks, acceptance, rejection, overrun -/

/-- 60_exceptions.md R254: each bit of the CAUSE mask, for every command and every state. -/
def Obligations.CheckMaskReportsEveryFailedCheck : Prop :=
  ∀ (i : Instr) (b : Block),
    ((checks i b).getLsbD 0 = true ↔ (i = .conv ∨ i = .totp) ∧ b.period.toInt ≤ 0) ∧
    ((checks i b).getLsbD 1 = true ↔ (i = .hmac ∨ i = .trunc ∨ i = .hotp ∨ i = .totp) ∧ b.ctrl.alg = 3) ∧
    ((checks i b).getLsbD 2 = true ↔ (i = .hmac ∨ i = .hotp ∨ i = .totp) ∧ 256 < b.keylen.toNat) ∧
    ((checks i b).getLsbD 3 = true ↔
      (i = .reduce ∨ i = .hotp ∨ i = .totp) ∧ ¬(6 ≤ b.ctrl.digits.toNat ∧ b.ctrl.digits.toNat ≤ 10)) ∧
    (i = .zeroize → checks i b = 0)

/-- 60_exceptions.md R256: a CMD write in the idle block with an illegal OP or a failed check changes ERRINFO, ERR and DONE
and nothing else. -/
def Obligations.RejectionChangesThreeFieldsOnly : Prop :=
  ∀ (s : State) (off : BitVec 12) (w : Word) (rest : List Event),
    s.agenda = .write off w :: rest → off &&& 0xFFC = 0x024 → s.block.status.busy = false →
    (∀ op, decode w = .error (.illegalCommand op) →
      step s = .next { s with
        agenda := rest
        readData := none
        block := { s.block with
          errInfo := { op := w.extractLsb' 0 4, cause := 0, code := 3 }
          status := { s.block.status with err := true, done := true } } }) ∧
    (∀ i, decode w = .ok i → checks i s.block ≠ 0 →
      step s = .next { s with
        agenda := rest
        readData := none
        block := { s.block with
          errInfo := { op := w.extractLsb' 0 4, cause := checks i s.block, code := 1 }
          status := { s.block.status with err := true, done := true } } })

/-- 60_exceptions.md R255: a CMD write in the idle block whose command passes its checks is accepted: ERRINFO, DONE, BUSY
and PEND_OP are written, ERR and OVERRUN and everything else stay. -/
def Obligations.AcceptanceSetsBusyAndPending : Prop :=
  ∀ (s : State) (off : BitVec 12) (w : Word) (rest : List Event) (i : Instr),
    s.agenda = .write off w :: rest → off &&& 0xFFC = 0x024 → s.block.status.busy = false → decode w = .ok i →
    checks i s.block = 0 →
    step s = .next { s with
      agenda := rest
      readData := none
      block := { s.block with
        errInfo := { op := w.extractLsb' 0 4, cause := 0, code := 0 }
        status := { s.block.status with done := false, busy := true }
        pendOp := w.extractLsb' 0 4 } }

/-- 60_exceptions.md R257: while BUSY a CMD write, whatever its OP, and a write to any input register set OVERRUN and change
nothing else. -/
def Obligations.WriteWhileBusyOnlyOverruns : Prop :=
  ∀ (s : State) (off : BitVec 12) (w : Word) (rest : List Event) (r : Reg),
    s.agenda = .write off w :: rest → s.block.status.busy = true → regAt off = some r →
    (r = .cmd ∨ isInput r = true) →
    step s = .next { s with
      agenda := rest
      readData := none
      block := { s.block with status := { s.block.status with overrun := true } } }

/-! ### The bus -/

/-- 20_memory.md R80: a read answers the register's view at its word offset and changes no state of the block. -/
def Obligations.BusReadAnswersRegisterView : Prop :=
  ∀ (s : State) (off : BitVec 12) (rest : List Event), s.agenda = .read off :: rest →
    ∃ v : Word, step s = .next { s with agenda := rest, readData := some v } ∧
      let o := off &&& 0xFFC
      let b := s.block
      (o = 0x000 → v = 0x544F5450) ∧
      (o = 0x004 → v = 0x00000001) ∧
      (o = 0x008 → v = 0#24 ++ b.ctrl.digits ++ 0#2 ++ b.ctrl.alg) ∧
      (o = 0x00C → v = b.period) ∧
      (o = 0x010 → v = b.timeLo) ∧
      (o = 0x014 → v = b.timeHi) ∧
      (o = 0x018 → v = b.counterLo) ∧
      (o = 0x01C → v = b.counterHi) ∧
      (o = 0x020 → v = 0#16 ++ b.keylen) ∧
      (o = 0x024 → v = 0) ∧
      (o = 0x028 → v = 0#28 ++ BitVec.ofBool b.status.overrun ++ BitVec.ofBool b.status.err ++
        BitVec.ofBool b.status.done ++ BitVec.ofBool b.status.busy) ∧
      (o = 0x02C → v = 0#12 ++ b.errInfo.op ++ 0#4 ++ b.errInfo.cause ++ 0#4 ++ b.errInfo.code) ∧
      (o = 0x030 → v = 0#29 ++ BitVec.ofBool b.irqEn.ovrIe ++ BitVec.ofBool b.irqEn.errIe ++
        BitVec.ofBool b.irqEn.doneIe) ∧
      (o = 0x034 → v = 0#28 ++ b.offset) ∧
      (o = 0x038 → v = b.binary) ∧
      (o = 0x03C → v = b.code) ∧
      (o = 0x040 → v = b.bcdLo) ∧
      (o = 0x044 → v = 0#24 ++ b.bcdHi) ∧
      (∀ k, k < 4 → o = BitVec.ofNat 12 (0x050 + 4 * k) → v = winWord b.ascii k) ∧
      (∀ k, k < 16 → o = BitVec.ofNat 12 (0x100 + 4 * k) → v = winWord b.digest k) ∧
      (∀ k, k < 64 → o = BitVec.ofNat 12 (0x200 + 4 * k) → v = 0) ∧
      ((o.toNat = 0x048 ∨ o.toNat = 0x04C ∨ (0x060 ≤ o.toNat ∧ o.toNat ≤ 0x0FC) ∨
        (0x140 ≤ o.toNat ∧ o.toNat ≤ 0x1FC) ∨ 0x300 ≤ o.toNat) → v = 0)

/-- 20_memory.md R81: what a write at each word offset does to the block; everything else of the state stays. -/
def Obligations.BusWriteFollowsRegisterMap : Prop :=
  ∀ (s : State) (off : BitVec 12) (w : Word) (rest : List Event), s.agenda = .write off w :: rest →
    let s' := { s with agenda := rest, readData := none }
    let b := s.block
    let o := off &&& 0xFFC
    let input (c : Block) := step s = .next { s' with
      block := if b.status.busy then { b with status := { b.status with overrun := true } } else c }
    (o = 0x024 → step s = cmdWrite w s') ∧
    (o = 0x028 → step s = .next { s' with
      block := { b with
        status := { b.status with
          done := if w.getLsbD 1 then false else b.status.done
          err := if w.getLsbD 2 then false else b.status.err
          overrun := if w.getLsbD 3 then false else b.status.overrun } } }) ∧
    (o = 0x030 → step s = .next { s' with
      block := { b with irqEn := { doneIe := w.getLsbD 0, errIe := w.getLsbD 1, ovrIe := w.getLsbD 2 } } }) ∧
    (o = 0x008 → input { b with ctrl := { digits := w.extractLsb' 4 4, alg := w.extractLsb' 0 2 } }) ∧
    (o = 0x00C → input { b with period := w }) ∧
    (o = 0x010 → input { b with timeLo := w }) ∧
    (o = 0x014 → input { b with timeHi := w }) ∧
    (o = 0x018 → input { b with counterLo := w }) ∧
    (o = 0x01C → input { b with counterHi := w }) ∧
    (o = 0x020 → input { b with keylen := w.extractLsb' 0 16 }) ∧
    (o = 0x038 → input { b with binary := w }) ∧
    (∀ k, k < 16 → o = BitVec.ofNat 12 (0x100 + 4 * k) → input { b with digest := storeWord b.digest k w }) ∧
    (∀ k, k < 64 → o = BitVec.ofNat 12 (0x200 + 4 * k) → input { b with key := storeWord b.key k w }) ∧
    ((o.toNat = 0x000 ∨ o.toNat = 0x004 ∨ o.toNat = 0x02C ∨ o.toNat = 0x034 ∨
        (0x03C ≤ o.toNat ∧ o.toNat ≤ 0x0FC) ∨ (0x140 ≤ o.toNat ∧ o.toNat ≤ 0x1FC) ∨ 0x300 ≤ o.toNat) →
      step s = .next s')

/-- 20_memory.md R71: two offsets that differ in bits 1:0 alone reach the same word, for reads and for writes. -/
def Obligations.OffsetLowBitsAreNotDecoded : Prop :=
  ∀ (s : State) (off off' : BitVec 12) (w : Word) (rest : List Event), off &&& 0xFFC = off' &&& 0xFFC →
    step { s with agenda := .read off :: rest } = step { s with agenda := .read off' :: rest } ∧
    step { s with agenda := .write off w :: rest } = step { s with agenda := .write off' w :: rest }

/-- 20_memory.md R72: reserved offsets read 0 and ignore writes, even while BUSY; reserved bits of every register read 0. -/
def Obligations.ReservedOffsetsAndBitsReadZero : Prop :=
  (∀ (s : State) (off : BitVec 12) (w : Word) (rest : List Event) (o : Nat), o = (off &&& 0xFFC).toNat →
    (o = 0x048 ∨ o = 0x04C ∨ (0x060 ≤ o ∧ o ≤ 0x0FC) ∨ (0x140 ≤ o ∧ o ≤ 0x1FC) ∨ 0x300 ≤ o) →
    step { s with agenda := .read off :: rest } = .next { s with agenda := rest, readData := some 0 } ∧
    step { s with agenda := .write off w :: rest } = .next { s with agenda := rest, readData := none }) ∧
  (∀ b : Block,
    readReg b .ctrl &&& 0xFFFFFF0C = 0 ∧ readReg b .keylen &&& 0xFFFF0000 = 0 ∧
    readReg b .status &&& 0xFFFFFFF0 = 0 ∧ readReg b .errinfo &&& 0xFFF0F0F0 = 0 ∧
    readReg b .irqEn &&& 0xFFFFFFF8 = 0 ∧ readReg b .offset &&& 0xFFFFFFF0 = 0 ∧
    readReg b .codeBcdHi &&& 0xFFFFFF00 = 0)

/-- 10_state.md R22: ID and VERSION read their constants in every state, and a write to either does nothing. -/
def Obligations.IdentityRegistersAreHardwired : Prop :=
  ∀ (s : State) (off : BitVec 12) (w : Word) (rest : List Event),
    (off &&& 0xFFC = 0x000 →
      step { s with agenda := .read off :: rest } = .next { s with agenda := rest, readData := some 0x544F5450 }) ∧
    (off &&& 0xFFC = 0x004 →
      step { s with agenda := .read off :: rest } = .next { s with agenda := rest, readData := some 0x00000001 }) ∧
    (off &&& 0xFFC = 0x000 ∨ off &&& 0xFFC = 0x004 →
      step { s with agenda := .write off w :: rest } = .next { s with agenda := rest, readData := none })

/-- 20_memory.md R73: how a word sits in a byte window. The word read is the four bytes, byte 4k most significant; a stored
word puts its bytes there and keeps every other byte; a word stored is the word read back. -/
def Obligations.ByteWindowsAreBigEndian : Prop :=
  ∀ (n : Nat) (v : Vector Byte n) (k : Nat) (w : Word), 4 * k + 3 < n →
    (winWord v k).toNat =
      byteAt v (4 * k) * 2 ^ 24 + byteAt v (4 * k + 1) * 2 ^ 16 + byteAt v (4 * k + 2) * 2 ^ 8 + byteAt v (4 * k + 3) ∧
    byteAt (storeWord v k w) (4 * k) = w.toNat / 2 ^ 24 ∧
    byteAt (storeWord v k w) (4 * k + 1) = w.toNat / 2 ^ 16 % 256 ∧
    byteAt (storeWord v k w) (4 * k + 2) = w.toNat / 2 ^ 8 % 256 ∧
    byteAt (storeWord v k w) (4 * k + 3) = w.toNat % 256 ∧
    (∀ i, i < 4 * k ∨ 4 * k + 3 < i → byteAt (storeWord v k w) i = byteAt v i) ∧
    winWord (storeWord v k w) k = w

/-- 20_memory.md R74: the 64-bit values are {HI, LO}, each half at its own offset, and no bus transaction writes both
halves of either. -/
def Obligations.SixtyFourBitValuesAreTwoWords : Prop :=
  (∀ b : Block,
    timeOf b = b.timeHi.toNat * 2 ^ 32 + b.timeLo.toNat ∧ counterOf b = b.counterHi.toNat * 2 ^ 32 + b.counterLo.toNat ∧
    busReadWord 0x010 b = b.timeLo ∧ busReadWord 0x014 b = b.timeHi ∧
    busReadWord 0x018 b = b.counterLo ∧ busReadWord 0x01C b = b.counterHi) ∧
  (∀ (s t : State) (e : Event) (rest : List Event), s.agenda = e :: rest → e.isBus = true → step s = .next t →
    (t.block.timeLo = s.block.timeLo ∨ t.block.timeHi = s.block.timeHi) ∧
    (t.block.counterLo = s.block.counterLo ∨ t.block.counterHi = s.block.counterHi))

/-- 30_encoding.md R113: the register map and the address decoder agree: each register's offset reaches it, and a
transaction that reaches a register is at its offset, bits 1:0 aside. -/
def Obligations.RegisterMapAndDecoderAgree : Prop :=
  (∀ r : Reg, regAt r.off = some r) ∧ ∀ (off : BitVec 12) (r : Reg), regAt off = some r → off &&& 0xFFC = r.off

/-- 20_memory.md R70: the window is the 4 KiB at BASE_ADDR, whatever BASE_ADDR is: every offset has one host address and
every host address outside the window reaches another device. -/
def Obligations.HostAddressesOfTheWindow : Prop :=
  Config.baseAddr % 4096 = 0 ∧ (∀ off, windowOffset (hostAddress off) = some off) ∧
    (∀ addr off, windowOffset addr = some off → addr = hostAddress off) ∧
    (∀ addr, windowOffset addr = none ↔ addr < Config.baseAddr ∨ Config.baseAddr + 4096 ≤ addr)

/-! ### The interrupt and the status bits -/

/-- 60_exceptions.md R262: the level, as the enabled status bits, and the platform input it drives. -/
def Obligations.InterruptLevelIsTheEnabledFlags : Prop :=
  ∀ (b : Block) (line : Nat),
    (irq b = true ↔
      (b.status.done = true ∧ b.irqEn.doneIe = true) ∨ (b.status.err = true ∧ b.irqEn.errIe = true) ∨
        (b.status.overrun = true ∧ b.irqEn.ovrIe = true)) ∧
    (drivesIrqLine line b = true ↔ line = Config.irqLine ∧ irq b = true)

/-- 60_exceptions.md R263: an accepted command withdraws the DONE interrupt; an ERR or an OVERRUN interrupt stays through
every step but a STATUS write of 1 to its bit, an IRQ_EN write that clears its enable, and a reset. -/
def Obligations.ErrorInterruptsStayUntilAcknowledged : Prop :=
  (∀ (s t : State), step s = .next t → s.block.status.busy = false → t.block.status.busy = true →
    t.block.status.done = false) ∧
  (∀ (s t : State), step s = .next t →
    (∀ rest, s.agenda ≠ .reset :: rest) →
    (∀ off w rest, s.agenda = .write off w :: rest →
      (off &&& 0xFFC = 0x028 → w.getLsbD 2 = false) ∧ (off &&& 0xFFC = 0x030 → w.getLsbD 1 = true)) →
    s.block.status.err = true → s.block.irqEn.errIe = true → irq t.block = true) ∧
  (∀ (s t : State), step s = .next t →
    (∀ rest, s.agenda ≠ .reset :: rest) →
    (∀ off w rest, s.agenda = .write off w :: rest →
      (off &&& 0xFFC = 0x028 → w.getLsbD 3 = false) ∧ (off &&& 0xFFC = 0x030 → w.getLsbD 2 = true)) →
    s.block.status.overrun = true → s.block.irqEn.ovrIe = true → irq t.block = true)

/-- 10_state.md R31, R32: BUSY rises only by an accepted command and falls only at the engine's turn or a reset. -/
def Obligations.BusyChangesOnlyByAcceptanceCompletionReset : Prop :=
  ∀ s t : State, step s = .next t →
    (s.block.status.busy = false → t.block.status.busy = true →
      ∃ off w rest i, s.agenda = .write off w :: rest ∧ off &&& 0xFFC = 0x024 ∧ decode w = .ok i ∧
        checks i s.block = 0 ∧ t.block.pendOp = opcode i) ∧
    (s.block.status.busy = true → t.block.status.busy = false →
      s.agenda = [] ∨ (∃ rest, s.agenda = .engine :: rest) ∨ ∃ rest, s.agenda = .reset :: rest)

/-- 20_memory.md R83, 10_state.md R38 to R42: the registers only the engine writes change in no bus transaction, and in no
engine's turn while idle. That last step is the model's own (log entry 3): the spec has no engine step of an idle block. -/
def Obligations.ReadOnlyResultsChangeOnlyAtCompletion : Prop :=
  ∀ (s t : State) (e : Event) (rest : List Event), step s = .next t → s.agenda = e :: rest →
    (e.isBus = true ∨ (e = .engine ∧ s.block.status.busy = false)) →
    t.block.offset = s.block.offset ∧ t.block.code = s.block.code ∧ t.block.bcdLo = s.block.bcdLo ∧
      t.block.bcdHi = s.block.bcdHi ∧ t.block.ascii = s.block.ascii

/-! ### The commands complete -/

/-- 40_counter_time.md R130, R131: CONV completes for every time and every legal period: COUNTER is the floor quotient and
nothing else but BUSY, DONE and PEND_OP changes. -/
def Obligations.ConvWritesFloorQuotient : Prop :=
  ∀ s : State, s.block.status.busy = true → 1 ≤ s.block.period.toInt →
    ∃ lo hi : Word,
      exec .conv s = .next { s with
        block := { s.block with
          counterLo := lo
          counterHi := hi
          status := { s.block.status with busy := false, done := true }
          pendOp := 0 } } ∧
      hi.toNat * 2 ^ 32 + lo.toNat = (s.block.timeHi.toNat * 2 ^ 32 + s.block.timeLo.toNat) / s.block.period.toNat

/-- 41_hmac.md R150, R155: HMAC completes for every legal algorithm, key length and counter: DIGEST holds the HMAC of the
counter's eight bytes under KEY[0..LEN-1], zero-filled, and nothing else but BUSY, DONE and PEND_OP changes. -/
def Obligations.HmacWritesDigest : Prop :=
  ∀ (s : State) (alg : HashAlg), s.block.status.busy = true → hashAlgOf s.block.ctrl.alg = some alg →
    s.block.keylen.toNat ≤ 256 →
    ∃ dig : Vector Byte 64,
      exec .hmac s = .next { s with
        block := { s.block with
          digest := dig
          status := { s.block.status with busy := false, done := true }
          pendOp := 0 } } ∧
      HoldsDigest alg (hmac alg (s.block.key.toList.take s.block.keylen.toNat) (messageOf s.block)) dig

/-- 43_truncation.md R201, R202: TRUNC completes for every legal algorithm and every digest: OFFSET is the low nibble of
DIGEST[L-1], BINARY the masked big-endian window, below 2^31, and nothing else but BUSY, DONE and PEND_OP changes. -/
def Obligations.TruncExtractsMaskedWindow : Prop :=
  ∀ (s : State) (alg : HashAlg), s.block.status.busy = true → hashAlgOf s.block.ctrl.alg = some alg →
    ∃ (off : BitVec 4) (bin : Word),
      exec .trunc s = .next { s with
        block := { s.block with
          offset := off
          binary := bin
          status := { s.block.status with busy := false, done := true }
          pendOp := 0 } } ∧
      Truncates (digestLen alg) s.block.digest off bin ∧ bin.toNat ≤ 0x7FFFFFFF

/-- 44_decimal_reduction.md R215, R216, R221: REDUCE completes for every legal DIGITS and every 32-bit BINARY, bit 31 set or
not: the code registers show BINARY mod 10^DIGITS, and nothing else but BUSY, DONE and PEND_OP changes. -/
def Obligations.ReduceWritesCode : Prop :=
  ∀ s : State, s.block.status.busy = true → 6 ≤ s.block.ctrl.digits.toNat → s.block.ctrl.digits.toNat ≤ 10 →
    ∃ (code lo : Word) (hi : BitVec 8) (ascii : Vector Byte 16),
      let b' := { s.block with
        code := code
        bcdLo := lo
        bcdHi := hi
        ascii := ascii
        status := { s.block.status with busy := false, done := true }
        pendOp := 0 }
      exec .reduce s = .next { s with block := b' } ∧
      ShowsCode s.block.binary.toNat s.block.ctrl.digits.toNat b'

/-- 45_composite_and_key.md R230: HOTP completes: DIGEST, then OFFSET and BINARY of that DIGEST, then the code of that BINARY;
COUNTER and everything else but BUSY, DONE and PEND_OP stays. -/
def Obligations.HotpRunsItsThreeStages : Prop :=
  ∀ (s : State) (alg : HashAlg), s.block.status.busy = true → hashAlgOf s.block.ctrl.alg = some alg →
    s.block.keylen.toNat ≤ 256 → 6 ≤ s.block.ctrl.digits.toNat → s.block.ctrl.digits.toNat ≤ 10 →
    ∃ (dig : Vector Byte 64) (off : BitVec 4) (bin code lo : Word) (hi : BitVec 8) (ascii : Vector Byte 16),
      let b' := { s.block with
        digest := dig
        offset := off
        binary := bin
        code := code
        bcdLo := lo
        bcdHi := hi
        ascii := ascii
        status := { s.block.status with busy := false, done := true }
        pendOp := 0 }
      exec .hotp s = .next { s with block := b' } ∧
      HoldsDigest alg (hmac alg (s.block.key.toList.take s.block.keylen.toNat) (messageOf s.block)) dig ∧
      Truncates (digestLen alg) dig off bin ∧ ShowsCode bin.toNat s.block.ctrl.digits.toNat b'

/-- 45_composite_and_key.md R231: TOTP completes: COUNTER is the floor quotient, DIGEST is the HMAC of that COUNTER, then
OFFSET, BINARY and the code; everything else but BUSY, DONE and PEND_OP stays. -/
def Obligations.TotpRunsItsFourStages : Prop :=
  ∀ (s : State) (alg : HashAlg), s.block.status.busy = true → 1 ≤ s.block.period.toInt →
    hashAlgOf s.block.ctrl.alg = some alg → s.block.keylen.toNat ≤ 256 → 6 ≤ s.block.ctrl.digits.toNat →
    s.block.ctrl.digits.toNat ≤ 10 →
    ∃ (clo chi : Word) (dig : Vector Byte 64) (off : BitVec 4) (bin code lo : Word) (hi : BitVec 8)
      (ascii : Vector Byte 16),
      let b' := { s.block with
        counterLo := clo
        counterHi := chi
        digest := dig
        offset := off
        binary := bin
        code := code
        bcdLo := lo
        bcdHi := hi
        ascii := ascii
        status := { s.block.status with busy := false, done := true }
        pendOp := 0 }
      exec .totp s = .next { s with block := b' } ∧
      chi.toNat * 2 ^ 32 + clo.toNat =
        (s.block.timeHi.toNat * 2 ^ 32 + s.block.timeLo.toNat) / s.block.period.toNat ∧
      HoldsDigest alg (hmac alg (s.block.key.toList.take s.block.keylen.toNat) (messageOf b')) dig ∧
      Truncates (digestLen alg) dig off bin ∧ ShowsCode bin.toNat s.block.ctrl.digits.toNat b'

/-- 45_composite_and_key.md R232: ZEROIZE is accepted in every idle state, and completes in every busy one: all 256 key bytes
and KEYLEN are 0, and nothing else but BUSY, DONE and PEND_OP changes. -/
def Obligations.ZeroizeClearsKeyAndLength : Prop :=
  ∀ s : State,
    (s.block.status.busy = false → ∃ t, exec .zeroize s = .next t ∧ t.block.status.busy = true ∧ t.block.pendOp = 7) ∧
    (s.block.status.busy = true →
      ∃ key : Vector Byte 256,
        exec .zeroize s = .next { s with
          block := { s.block with
            key := key
            keylen := 0
            status := { s.block.status with busy := false, done := true }
            pendOp := 0 } } ∧
        ∀ i, i < 256 → byteAt key i = 0)

/-- 45_composite_and_key.md R236, 30_encoding.md R104: the only registers a command changes, in either of its steps, are the
ones R104 lists for it, STATUS, ERRINFO and PEND_OP; OVERRUN and IRQ_EN it never changes. -/
def Obligations.CommandsChangeOnlyTheirRegisters : Prop :=
  ∀ (i : Instr) (s t : State), exec i s = .next t →
    t.agenda = s.agenda ∧ t.readData = s.readData ∧ t.block.status.overrun = s.block.status.overrun ∧
    Block.sameSettings s.block t.block ∧
    (i ≠ .zeroize → t.block.key = s.block.key ∧ t.block.keylen = s.block.keylen) ∧
    (i ≠ .conv → i ≠ .totp →
      t.block.counterLo = s.block.counterLo ∧ t.block.counterHi = s.block.counterHi) ∧
    (i ≠ .hmac → i ≠ .hotp → i ≠ .totp → t.block.digest = s.block.digest) ∧
    (i ≠ .trunc → i ≠ .hotp → i ≠ .totp → t.block.offset = s.block.offset ∧ t.block.binary = s.block.binary) ∧
    (i ≠ .reduce → i ≠ .hotp → i ≠ .totp →
      t.block.code = s.block.code ∧ t.block.bcdLo = s.block.bcdLo ∧ t.block.bcdHi = s.block.bcdHi ∧
        t.block.ascii = s.block.ascii) ∧
    (s.block.status.busy = true → t.block.errInfo = s.block.errInfo ∧ t.block.status.err = s.block.status.err)

/-! ### CONV -/

/-- 40_counter_time.md R134: equal quotients give the same COUNTER (CONV and TOTP) and the same code (TOTP): two busy states
that differ in TIME alone end in states that differ in TIME alone. -/
def Obligations.EqualTimeWindowsGiveEqualCodes : Prop :=
  ∀ (s t : State) (lo hi : Word) (i : Instr), (i = .conv ∨ i = .totp) → s.block.status.busy = true →
    timeOf s.block / (periodOf s.block).toNat =
      timeOf { s.block with timeLo := lo, timeHi := hi } / (periodOf s.block).toNat →
    exec i s = .next t →
    exec i { s with block := { s.block with timeLo := lo, timeHi := hi } } =
      .next { t with block := { t.block with timeLo := lo, timeHi := hi } }

/-! ### HMAC and the hash functions -/

/-- 20_memory.md R75: the HMAC message is the counter, most significant byte first. -/
def Obligations.MessageIsBigEndianCounter : Prop :=
  ∀ b : Block, (messageOf b).map (·.toNat) =
    [b.counterHi.toNat / 2 ^ 24, b.counterHi.toNat / 2 ^ 16 % 256, b.counterHi.toNat / 2 ^ 8 % 256,
      b.counterHi.toNat % 256, b.counterLo.toNat / 2 ^ 24, b.counterLo.toNat / 2 ^ 16 % 256,
      b.counterLo.toNat / 2 ^ 8 % 256, b.counterLo.toNat % 256]

/-- 00_scope.md R8, 42_sha_functions.md R170: a digest of every message has L(alg) bytes. -/
def Obligations.DigestHasAlgorithmLength : Prop :=
  ∀ (alg : HashAlg) (m : List Byte),
    (hashBytes alg m).length = match alg with | .sha1 => 20 | .sha256 => 32 | .sha512 => 64

/-- 41_hmac.md R151: K0 is the key, hashed first when longer than B, padded on the right with 0x00, and has B bytes for every
key. -/
def Obligations.KeyBlockHasBlockLength : Prop :=
  ∀ (alg : HashAlg) (key : List Byte),
    keyBlock alg key =
      (if key.length > blockLen alg then hashBytes alg key ++ List.replicate (blockLen alg - digestLen alg) 0
        else key ++ List.replicate (blockLen alg - key.length) 0) ∧
    (keyBlock alg key).length = match alg with | .sha1 => 64 | .sha256 => 64 | .sha512 => 128

/-- 41_hmac.md R152, R153: the HMAC value, its length, and the lengths of the messages it hashes in this block: the inner
B + 8 bytes, the outer B + L. -/
def Obligations.HmacIsTheNestedHash : Prop :=
  ∀ (alg : HashAlg) (key : List Byte) (b : Block),
    let inner := (keyBlock alg key).map (· ^^^ 0x36) ++ messageOf b
    let outer := (keyBlock alg key).map (· ^^^ 0x5C) ++ hashBytes alg inner
    hmac alg key (messageOf b) = hashBytes alg outer ∧ (hmac alg key (messageOf b)).length = digestLen alg ∧
      inner.length = blockLen alg + 8 ∧ outer.length = blockLen alg + digestLen alg

/-- 41_hmac.md R156: the key bytes at and above KEYLEN keep their values and do not change what HMAC, HOTP or TOTP writes:
two busy states that differ there alone end in states that differ there alone. -/
def Obligations.KeyBytesAboveLengthDoNotMatter : Prop :=
  ∀ (i : Instr) (s t : State) (k : Vector Byte 256), (i = .hmac ∨ i = .hotp ∨ i = .totp) →
    s.block.status.busy = true → k.toList.take s.block.keylen.toNat = s.block.key.toList.take s.block.keylen.toNat →
    exec i s = .next t → t.block.key = s.block.key ∧ exec i (s.withKey k) = .next (t.withKey k)

/-- 41_hmac.md R157, 70_reset_and_hazards.md R290: a key of n zero bytes, n at most B, gives the MAC of the empty key. -/
def Obligations.ZeroBytesKeyActsAsEmptyKey : Prop :=
  ∀ (alg : HashAlg) (n : Nat) (msg : List Byte), n ≤ blockLen alg →
    hmac alg (List.replicate n 0) msg = hmac alg [] msg

/-- 42_sha_functions.md R171, R172: the padded message, the number of zero bytes least, the length a multiple of the block. -/
def Obligations.PaddingFillsWholeBlocksWithLeastZeros : Prop :=
  ∀ m : List Byte,
    (∃ k, pad512 m = m ++ [0x80] ++ List.replicate k 0 ++ beBytes 8 (8 * m.length) ∧ (m.length + 1 + k + 8) % 64 = 0 ∧
      (∀ j, (m.length + 1 + j + 8) % 64 = 0 → k ≤ j) ∧ (pad512 m).length % 64 = 0) ∧
    (∃ k, pad1024 m = m ++ [0x80] ++ List.replicate k 0 ++ beBytes 16 (8 * m.length) ∧
      (m.length + 1 + k + 16) % 128 = 0 ∧ (∀ j, (m.length + 1 + j + 16) % 128 = 0 → k ≤ j) ∧
      (pad1024 m).length % 128 = 0)

/-- 42_sha_functions.md R176, R180, R184: the three message schedules begin with the block's 16 words and satisfy the
recurrences of the rules, word by word. -/
def Obligations.SchedulesSatisfyTheirRecurrences : Prop :=
  (∀ m : List (BitVec 32), m.length = 16 →
    let w := fun t => (sha1Schedule m).getD t 0
    (sha1Schedule m).length = 80 ∧ (∀ t, t < 16 → w t = m.getD t 0) ∧
    ∀ t, 16 ≤ t → t < 80 → w t = rotl 1 (w (t - 3) ^^^ w (t - 8) ^^^ w (t - 14) ^^^ w (t - 16))) ∧
  (∀ m : List (BitVec 32), m.length = 16 →
    let w := fun t => (schedule (sha2Next sha256Sigma0 sha256Sigma1) 48 m).getD t 0
    (schedule (sha2Next sha256Sigma0 sha256Sigma1) 48 m).length = 64 ∧ (∀ t, t < 16 → w t = m.getD t 0) ∧
    ∀ t, 16 ≤ t → t < 64 →
      w t = sha256Sigma1 (w (t - 2)) + w (t - 7) + sha256Sigma0 (w (t - 15)) + w (t - 16)) ∧
  (∀ m : List (BitVec 64), m.length = 16 →
    let w := fun t => (schedule (sha2Next sha512Sigma0 sha512Sigma1) 64 m).getD t 0
    (schedule (sha2Next sha512Sigma0 sha512Sigma1) 64 m).length = 80 ∧ (∀ t, t < 16 → w t = m.getD t 0) ∧
    ∀ t, 16 ≤ t → t < 80 →
      w t = sha512Sigma1 (w (t - 2)) + w (t - 7) + sha512Sigma0 (w (t - 15)) + w (t - 16))

/-! ### TRUNC -/

/-- 43_truncation.md R203: the truncation window lies inside the digest of every algorithm. -/
def Obligations.TruncationWindowInsideDigest : Prop :=
  ∀ (alg : HashAlg) (off : BitVec 4), off.toNat + 3 < digestLen alg ∧ off.toNat + 3 ≤ 18

/-- 43_truncation.md R204: TRUNC reads only ALG and DIGEST[0..L-1]: two busy states that agree on those get the same OFFSET
and BINARY; and after HMAC's completion TRUNC gives what HOTP gives. -/
def Obligations.TruncDependsOnAlgAndDigestAlone : Prop :=
  (∀ (s s' t t' : State) (alg : HashAlg), s.block.status.busy = true → s'.block.status.busy = true →
    hashAlgOf s.block.ctrl.alg = some alg → s'.block.ctrl.alg = s.block.ctrl.alg →
    (∀ i, i < digestLen alg → byteAt s'.block.digest i = byteAt s.block.digest i) →
    exec .trunc s = .next t → exec .trunc s' = .next t' →
    t'.block.offset = t.block.offset ∧ t'.block.binary = t.block.binary) ∧
  (∀ (s h t p : State), s.block.status.busy = true → exec .hmac s = .next h → exec .hotp s = .next p →
    exec .trunc { h with block := { h.block with status := s.block.status } } = .next t →
    t.block.offset = p.block.offset ∧ t.block.binary = p.block.binary)

/-! ### REDUCE -/

/-- 44_decimal_reduction.md R217: the ten BCD nibbles are decimal digits, the ones from d up are 0, and together they are the
code, for every code below 10^d. -/
def Obligations.BcdNibblesAreTheCodeInDecimal : Prop :=
  ∀ (code d : Nat), 6 ≤ d → d ≤ 10 → code < 10 ^ d →
    let nibble := fun i => ((bcdHigh code ++ bcdLow code).extractLsb' (4 * i) 4).toNat
    (∀ i, i < 10 → nibble i ≤ 9) ∧ (∀ i, d ≤ i → i < 10 → nibble i = 0) ∧
      ((List.range 10).map fun i => nibble i * 10 ^ i).sum = code

/-- 44_decimal_reduction.md R218, R220: for every legal d exactly the first d bytes of ASCII are digit characters and the
rest are 0x00, and the string is the numeral of the code. -/
def Obligations.AsciiStringIsTheZeroPaddedNumeral : Prop :=
  ∀ (code d : Nat), 6 ≤ d → d ≤ 10 → code < 10 ^ d →
    let char := byteAt (asciiWindow code d)
    (∀ j, j < d → 0x30 ≤ char j ∧ char j ≤ 0x39) ∧ (∀ j, d ≤ j → j < 16 → char j = 0) ∧
      ((List.range d).map fun j => (char j - 0x30) * 10 ^ (d - 1 - j)).sum = code

/-- 44_decimal_reduction.md R219: a 31-bit binary in ten digits is its own code, which begins with 0, 1 or 2; in nine digits
every code below 10^9 is reached. -/
def Obligations.TenDigitCodeIsTheWholeBinary : Prop :=
  (∀ binary, binary < 2 ^ 31 →
    codeValue binary 10 = binary ∧ codeValue binary 10 ≤ 2147483647 ∧
      (byteAt (asciiWindow (codeValue binary 10) 10) 0 = 0x30 ∨ byteAt (asciiWindow (codeValue binary 10) 10) 0 = 0x31 ∨
        byteAt (asciiWindow (codeValue binary 10) 10) 0 = 0x32)) ∧
  (∀ code, code ≤ 999999999 → ∃ binary, binary < 2 ^ 31 ∧ codeValue binary 9 = code) ∧
  (∀ binary, codeValue binary 9 ≤ 999999999)

/-! ### The host's sequences -/

/-- 30_encoding.md R112, 41_hmac.md R156: the transactions of LOADKEY, run in an idle block, make KEYLEN and KEY hold the
secret, for every secret the buffer holds, and change no byte above its last word and no other register. -/
def Obligations.LoadKeyMakesTheSecretTheKey : Prop :=
  ∀ (s : State) (secret : List Byte), s.block.status.busy = false → secret.length ≤ 256 →
    let es := (Pseudo.loadKey secret).expand.filterMap Stmt.transaction
    ∃ (t : State) (key : Vector Byte 256), RunsTo es.length (s.withAgenda es) t ∧ t.agenda = [] ∧
      t.block = { s.block with keylen := BitVec.ofNat 16 secret.length, key := key } ∧ keyOf t.block = secret ∧
      ∀ i, 4 * ((secret.length + 3) / 4) ≤ i → byteAt key i = byteAt s.block.key i

/-- 45_composite_and_key.md R234: the software entry point. From every idle block, whatever it holds, the host's sequence
for `generate` (the secret, the algorithm and digit count, the period, the time, the TOTP command) and the completion of
the command leave ERRINFO at success and the code registers at the code of the secret and the time. -/
def Obligations.SoftwareEntryPointGeneratesTheCode : Prop :=
  ∀ (s : State) (secret : List Byte) (algBits : BitVec 2) (alg : HashAlg) (d : BitVec 4) (period : Word)
    (time : BitVec 64),
    s.block.status.busy = false → secret.length ≤ 256 → hashAlgOf algBits = some alg → 6 ≤ d.toNat → d.toNat ≤ 10 →
    1 ≤ period.toInt →
    let es := (assemble [.loadKey secret, .config algBits d, .base (.wr (.reg .period) period), .wr64Time time,
      .base (.cmd .totp)]).filterMap Stmt.transaction ++ [.engine]
    ∃ t : State, RunsTo es.length (s.withAgenda es) t ∧ t.block.status.busy = false ∧ t.block.status.done = true ∧
      t.block.errInfo = { op := 6, cause := 0, code := 0 } ∧
      HoldsDigest alg (hmac alg secret (beBytes 8 (time.toNat / period.toNat))) t.block.digest ∧
      Truncates (digestLen alg) t.block.digest t.block.offset t.block.binary ∧
      ShowsCode t.block.binary.toNat d.toNat t.block

/-! ### Whole commands -/

/-- 45_composite_and_key.md R233: HOTP ends in the registers that HMAC, TRUNC and REDUCE, issued one after another, end in,
and TOTP in those of CONV, HMAC, TRUNC and REDUCE; only ERRINFO, which names the last command, differs. -/
def Obligations.CompositesEqualTheirStages : Prop :=
  ∀ s : State, s.block.status.busy = false →
    (checks .hotp s.block = 0 →
      ∃ t u, RunsTo 2 (s.withAgenda [commandEvent .hotp, .engine]) t ∧
        RunsTo 6 (s.withAgenda [commandEvent .hmac, .engine, commandEvent .trunc, .engine,
          commandEvent .reduce, .engine]) u ∧
        t = { u with block := { u.block with errInfo := t.block.errInfo } }) ∧
    (checks .totp s.block = 0 →
      ∃ t u, RunsTo 2 (s.withAgenda [commandEvent .totp, .engine]) t ∧
        RunsTo 8 (s.withAgenda [commandEvent .conv, .engine, commandEvent .hmac, .engine,
          commandEvent .trunc, .engine, commandEvent .reduce, .engine]) u ∧
        t = { u with block := { u.block with errInfo := t.block.errInfo } })

/-- 45_composite_and_key.md R235, 20_memory.md R87: a command's results depend on the input registers at its acceptance alone:
two idle blocks with the same inputs that accept the same command end, whatever bus transactions each meets before its
completion and however long that takes, with the same inputs and the same results of that command. -/
def Obligations.ResultsDependOnInputsAtAcceptanceAlone : Prop :=
  ∀ (i : Instr) (s s' : State) (es es' : List Event),
    s.block.status.busy = false → s'.block.status.busy = false → checks i s.block = 0 →
    Block.sameInputs s.block s'.block → (∀ e ∈ es, e.isBus = true) → (∀ e ∈ es', e.isBus = true) →
    ∃ t t', RunsTo (es.length + 2) (s.withAgenda (commandEvent i :: es ++ [.engine])) t ∧
      RunsTo (es'.length + 2) (s'.withAgenda (commandEvent i :: es' ++ [.engine])) t' ∧
      t.block.status.busy = false ∧ t.block.status.done = true ∧ Block.sameInputs t.block t'.block ∧
      (i = .trunc ∨ i = .hotp ∨ i = .totp → t.block.offset = t'.block.offset) ∧
      (i = .reduce ∨ i = .hotp ∨ i = .totp →
        t.block.code = t'.block.code ∧ t.block.bcdLo = t'.block.bcdLo ∧ t.block.bcdHi = t'.block.bcdHi ∧
          t.block.ascii = t'.block.ascii)

/-- 70_reset_and_hazards.md R292, under the weak fairness that the model builds in (log entry 2, the model's own): from every
legal state, when the port's pending steps have been taken and one more, no command is pending. Where the agenda holds an
engine's turn of an idle block, or the last step finds the block idle, that step is the model's own too (log entry 3). -/
def Obligations.PendingCommandIsEventuallyCompleted : Prop :=
  ∀ s : State, s.Legal → ∃ t, RunsTo (s.agenda.length + 1) s t ∧ t.agenda = [] ∧ t.block.status.busy = false ∧ t.Legal

/-- 10_state.md R44, 60_exceptions.md R265: no sequence of bus transactions lets the host learn the secret: two machines that
differ in KEY alone stay so, and answer every read alike. -/
def Obligations.BusTransactionsNeverRevealTheKey : Prop :=
  ∀ (n : Nat) (s t : State) (k : Vector Byte 256), (∀ e ∈ s.agenda, e.isBus = true) → n ≤ s.agenda.length →
    RunsTo n s t → ∃ k', RunsTo n (s.withKey k) (t.withKey k')

/-- 30_encoding.md R104, 10_state.md R44: the secret reaches another register only in a completion of HMAC, HOTP or TOTP: any
other step of two machines that differ in KEY alone ends in machines that differ in KEY alone. -/
def Obligations.OnlyHmacCommandsUseTheKey : Prop :=
  ∀ (s t : State) (k : Vector Byte 256),
    (s.block.status.busy = true → usesKey s.block.pendOp = true →
      ∃ e rest, s.agenda = e :: rest ∧ e ≠ .engine) →
    step s = .next t → ∃ k', step (s.withKey k) = .next (t.withKey k')
end

