-- ==== Sys2Proof/Laws/Decode.lean ====
section
/-! SUPPORT. Small lemmas about the opcode map, the opcode field and the decoder. -/

namespace Sys2Proof

theorem ofOpcode_opcode (i : Instr) : ofOpcode (opcode i) = some i := by
  cases i <;> rfl

theorem opcode_of_ofOpcode {op : BitVec 4} {i : Instr} (h : ofOpcode op = some i) : opcode i = op := by
  revert i
  revert op
  decide

theorem opcode_injective {i j : Instr} (h : opcode i = opcode j) : i = j := by
  have := ofOpcode_opcode i
  rw [h, ofOpcode_opcode] at this
  exact (Option.some.inj this).symm

/-- Only legal opcodes stand for a command (30_encoding.md R101, R108). -/
theorem ofOpcode_isSome (op : BitVec 4) : (ofOpcode op).isSome = legalOp op := by
  revert op
  decide

/-- The opcode field of an encoded command is its opcode, whatever bits 31:4 are (30_encoding.md R100). -/
theorem opField_encodeWith (x : BitVec 28) (i : Instr) : opField (encodeWith x i) = opcode i := by
  apply BitVec.eq_of_toNat_eq
  have h := (opcode i).isLt
  rw [opField, encodeWith, BitVec.extractLsb'_toNat, BitVec.toNat_append, Nat.shiftLeft_eq, Nat.mul_comm,
    ← Nat.two_pow_add_eq_or_of_lt h]
  omega

/-- A decoded word carries the opcode of its command (30_encoding.md R101). -/
theorem opField_of_decode {w : Word} {i : Instr} (h : decode w = .ok i) : opField w = opcode i := by
  unfold decode at h
  split at h
  · next j hj => cases h; exact (opcode_of_ofOpcode hj).symm
  · cases h

end Sys2Proof
end

