-- ==== Sys2Proof/Laws/Effects.lean ====
section
/-! SUPPORT. The frame of every command's effect (30_encoding.md R104): the registers a completion leaves unchanged, one
lemma per effect and per field, and the registers it writes. -/

namespace Sys2Proof.Machine

variable (b : Block)

/-! ### Each effect as an update of the registers it writes -/

theorem hmacEffect_frame : hmacEffect b = { b with digest := (hmacEffect b).digest } := by
  unfold hmacEffect
  split <;> rfl

theorem truncEffect_frame :
    truncEffect b = { b with offset := (truncEffect b).offset, binary := (truncEffect b).binary } := by
  unfold truncEffect
  split <;> rfl

/-- HMAC's effect for a legal algorithm (41_hmac.md R150). -/
theorem hmacEffect_of_alg {alg : HashAlg} (h : hashAlgOf b.ctrl.alg = some alg) :
    hmacEffect b = { b with digest := digestWindow alg (hmac alg (keyOf b) (messageOf b)) } := by
  simp only [hmacEffect, h]

/-- TRUNC's effect for a legal algorithm (43_truncation.md R200). -/
theorem truncEffect_of_alg {alg : HashAlg} (h : hashAlgOf b.ctrl.alg = some alg) :
    truncEffect b =
      { b with offset := truncOffset alg b, binary := truncWindow (truncOffset alg b).toNat b } := by
  simp only [truncEffect, h]

/-! ### CONV -/

@[simp] theorem convEffect_ctrl : (convEffect b).ctrl = b.ctrl := rfl
@[simp] theorem convEffect_period : (convEffect b).period = b.period := rfl
@[simp] theorem convEffect_timeLo : (convEffect b).timeLo = b.timeLo := rfl
@[simp] theorem convEffect_timeHi : (convEffect b).timeHi = b.timeHi := rfl
@[simp] theorem convEffect_keylen : (convEffect b).keylen = b.keylen := rfl
@[simp] theorem convEffect_status : (convEffect b).status = b.status := rfl
@[simp] theorem convEffect_errInfo : (convEffect b).errInfo = b.errInfo := rfl
@[simp] theorem convEffect_irqEn : (convEffect b).irqEn = b.irqEn := rfl
@[simp] theorem convEffect_offset : (convEffect b).offset = b.offset := rfl
@[simp] theorem convEffect_binary : (convEffect b).binary = b.binary := rfl
@[simp] theorem convEffect_code : (convEffect b).code = b.code := rfl
@[simp] theorem convEffect_bcdLo : (convEffect b).bcdLo = b.bcdLo := rfl
@[simp] theorem convEffect_bcdHi : (convEffect b).bcdHi = b.bcdHi := rfl
@[simp] theorem convEffect_ascii : (convEffect b).ascii = b.ascii := rfl
@[simp] theorem convEffect_digest : (convEffect b).digest = b.digest := rfl
@[simp] theorem convEffect_key : (convEffect b).key = b.key := rfl
@[simp] theorem convEffect_pendOp : (convEffect b).pendOp = b.pendOp := rfl

/-! ### HMAC -/

@[simp] theorem hmacEffect_ctrl : (hmacEffect b).ctrl = b.ctrl := by
  rw [hmacEffect_frame]
@[simp] theorem hmacEffect_period : (hmacEffect b).period = b.period := by
  rw [hmacEffect_frame]
@[simp] theorem hmacEffect_timeLo : (hmacEffect b).timeLo = b.timeLo := by
  rw [hmacEffect_frame]
@[simp] theorem hmacEffect_timeHi : (hmacEffect b).timeHi = b.timeHi := by
  rw [hmacEffect_frame]
@[simp] theorem hmacEffect_counterLo : (hmacEffect b).counterLo = b.counterLo := by
  rw [hmacEffect_frame]
@[simp] theorem hmacEffect_counterHi : (hmacEffect b).counterHi = b.counterHi := by
  rw [hmacEffect_frame]
@[simp] theorem hmacEffect_keylen : (hmacEffect b).keylen = b.keylen := by
  rw [hmacEffect_frame]
@[simp] theorem hmacEffect_status : (hmacEffect b).status = b.status := by
  rw [hmacEffect_frame]
@[simp] theorem hmacEffect_errInfo : (hmacEffect b).errInfo = b.errInfo := by
  rw [hmacEffect_frame]
@[simp] theorem hmacEffect_irqEn : (hmacEffect b).irqEn = b.irqEn := by
  rw [hmacEffect_frame]
@[simp] theorem hmacEffect_offset : (hmacEffect b).offset = b.offset := by
  rw [hmacEffect_frame]
@[simp] theorem hmacEffect_binary : (hmacEffect b).binary = b.binary := by
  rw [hmacEffect_frame]
@[simp] theorem hmacEffect_code : (hmacEffect b).code = b.code := by
  rw [hmacEffect_frame]
@[simp] theorem hmacEffect_bcdLo : (hmacEffect b).bcdLo = b.bcdLo := by
  rw [hmacEffect_frame]
@[simp] theorem hmacEffect_bcdHi : (hmacEffect b).bcdHi = b.bcdHi := by
  rw [hmacEffect_frame]
@[simp] theorem hmacEffect_ascii : (hmacEffect b).ascii = b.ascii := by
  rw [hmacEffect_frame]
@[simp] theorem hmacEffect_key : (hmacEffect b).key = b.key := by
  rw [hmacEffect_frame]
@[simp] theorem hmacEffect_pendOp : (hmacEffect b).pendOp = b.pendOp := by
  rw [hmacEffect_frame]

/-! ### TRUNC -/

@[simp] theorem truncEffect_ctrl : (truncEffect b).ctrl = b.ctrl := by
  rw [truncEffect_frame]
@[simp] theorem truncEffect_period : (truncEffect b).period = b.period := by
  rw [truncEffect_frame]
@[simp] theorem truncEffect_timeLo : (truncEffect b).timeLo = b.timeLo := by
  rw [truncEffect_frame]
@[simp] theorem truncEffect_timeHi : (truncEffect b).timeHi = b.timeHi := by
  rw [truncEffect_frame]
@[simp] theorem truncEffect_counterLo : (truncEffect b).counterLo = b.counterLo := by
  rw [truncEffect_frame]
@[simp] theorem truncEffect_counterHi : (truncEffect b).counterHi = b.counterHi := by
  rw [truncEffect_frame]
@[simp] theorem truncEffect_keylen : (truncEffect b).keylen = b.keylen := by
  rw [truncEffect_frame]
@[simp] theorem truncEffect_status : (truncEffect b).status = b.status := by
  rw [truncEffect_frame]
@[simp] theorem truncEffect_errInfo : (truncEffect b).errInfo = b.errInfo := by
  rw [truncEffect_frame]
@[simp] theorem truncEffect_irqEn : (truncEffect b).irqEn = b.irqEn := by
  rw [truncEffect_frame]
@[simp] theorem truncEffect_code : (truncEffect b).code = b.code := by
  rw [truncEffect_frame]
@[simp] theorem truncEffect_bcdLo : (truncEffect b).bcdLo = b.bcdLo := by
  rw [truncEffect_frame]
@[simp] theorem truncEffect_bcdHi : (truncEffect b).bcdHi = b.bcdHi := by
  rw [truncEffect_frame]
@[simp] theorem truncEffect_ascii : (truncEffect b).ascii = b.ascii := by
  rw [truncEffect_frame]
@[simp] theorem truncEffect_digest : (truncEffect b).digest = b.digest := by
  rw [truncEffect_frame]
@[simp] theorem truncEffect_key : (truncEffect b).key = b.key := by
  rw [truncEffect_frame]
@[simp] theorem truncEffect_pendOp : (truncEffect b).pendOp = b.pendOp := by
  rw [truncEffect_frame]

/-! ### REDUCE -/

@[simp] theorem reduceEffect_ctrl : (reduceEffect b).ctrl = b.ctrl := rfl
@[simp] theorem reduceEffect_period : (reduceEffect b).period = b.period := rfl
@[simp] theorem reduceEffect_timeLo : (reduceEffect b).timeLo = b.timeLo := rfl
@[simp] theorem reduceEffect_timeHi : (reduceEffect b).timeHi = b.timeHi := rfl
@[simp] theorem reduceEffect_counterLo : (reduceEffect b).counterLo = b.counterLo := rfl
@[simp] theorem reduceEffect_counterHi : (reduceEffect b).counterHi = b.counterHi := rfl
@[simp] theorem reduceEffect_keylen : (reduceEffect b).keylen = b.keylen := rfl
@[simp] theorem reduceEffect_status : (reduceEffect b).status = b.status := rfl
@[simp] theorem reduceEffect_errInfo : (reduceEffect b).errInfo = b.errInfo := rfl
@[simp] theorem reduceEffect_irqEn : (reduceEffect b).irqEn = b.irqEn := rfl
@[simp] theorem reduceEffect_offset : (reduceEffect b).offset = b.offset := rfl
@[simp] theorem reduceEffect_binary : (reduceEffect b).binary = b.binary := rfl
@[simp] theorem reduceEffect_digest : (reduceEffect b).digest = b.digest := rfl
@[simp] theorem reduceEffect_key : (reduceEffect b).key = b.key := rfl
@[simp] theorem reduceEffect_pendOp : (reduceEffect b).pendOp = b.pendOp := rfl

/-! ### HOTP -/

@[simp] theorem hotpEffect_ctrl : (hotpEffect b).ctrl = b.ctrl := by
  simp [hotpEffect]
@[simp] theorem hotpEffect_period : (hotpEffect b).period = b.period := by
  simp [hotpEffect]
@[simp] theorem hotpEffect_timeLo : (hotpEffect b).timeLo = b.timeLo := by
  simp [hotpEffect]
@[simp] theorem hotpEffect_timeHi : (hotpEffect b).timeHi = b.timeHi := by
  simp [hotpEffect]
@[simp] theorem hotpEffect_counterLo : (hotpEffect b).counterLo = b.counterLo := by
  simp [hotpEffect]
@[simp] theorem hotpEffect_counterHi : (hotpEffect b).counterHi = b.counterHi := by
  simp [hotpEffect]
@[simp] theorem hotpEffect_keylen : (hotpEffect b).keylen = b.keylen := by
  simp [hotpEffect]
@[simp] theorem hotpEffect_status : (hotpEffect b).status = b.status := by
  simp [hotpEffect]
@[simp] theorem hotpEffect_errInfo : (hotpEffect b).errInfo = b.errInfo := by
  simp [hotpEffect]
@[simp] theorem hotpEffect_irqEn : (hotpEffect b).irqEn = b.irqEn := by
  simp [hotpEffect]
@[simp] theorem hotpEffect_key : (hotpEffect b).key = b.key := by
  simp [hotpEffect]
@[simp] theorem hotpEffect_pendOp : (hotpEffect b).pendOp = b.pendOp := by
  simp [hotpEffect]

/-! ### TOTP -/

@[simp] theorem totpEffect_ctrl : (totpEffect b).ctrl = b.ctrl := by
  simp [totpEffect]
@[simp] theorem totpEffect_period : (totpEffect b).period = b.period := by
  simp [totpEffect]
@[simp] theorem totpEffect_timeLo : (totpEffect b).timeLo = b.timeLo := by
  simp [totpEffect]
@[simp] theorem totpEffect_timeHi : (totpEffect b).timeHi = b.timeHi := by
  simp [totpEffect]
@[simp] theorem totpEffect_keylen : (totpEffect b).keylen = b.keylen := by
  simp [totpEffect]
@[simp] theorem totpEffect_status : (totpEffect b).status = b.status := by
  simp [totpEffect]
@[simp] theorem totpEffect_errInfo : (totpEffect b).errInfo = b.errInfo := by
  simp [totpEffect]
@[simp] theorem totpEffect_irqEn : (totpEffect b).irqEn = b.irqEn := by
  simp [totpEffect]
@[simp] theorem totpEffect_key : (totpEffect b).key = b.key := by
  simp [totpEffect]
@[simp] theorem totpEffect_pendOp : (totpEffect b).pendOp = b.pendOp := by
  simp [totpEffect]

/-! ### ZEROIZE -/

@[simp] theorem zeroizeEffect_ctrl : (zeroizeEffect b).ctrl = b.ctrl := rfl
@[simp] theorem zeroizeEffect_period : (zeroizeEffect b).period = b.period := rfl
@[simp] theorem zeroizeEffect_timeLo : (zeroizeEffect b).timeLo = b.timeLo := rfl
@[simp] theorem zeroizeEffect_timeHi : (zeroizeEffect b).timeHi = b.timeHi := rfl
@[simp] theorem zeroizeEffect_counterLo : (zeroizeEffect b).counterLo = b.counterLo := rfl
@[simp] theorem zeroizeEffect_counterHi : (zeroizeEffect b).counterHi = b.counterHi := rfl
@[simp] theorem zeroizeEffect_status : (zeroizeEffect b).status = b.status := rfl
@[simp] theorem zeroizeEffect_errInfo : (zeroizeEffect b).errInfo = b.errInfo := rfl
@[simp] theorem zeroizeEffect_irqEn : (zeroizeEffect b).irqEn = b.irqEn := rfl
@[simp] theorem zeroizeEffect_offset : (zeroizeEffect b).offset = b.offset := rfl
@[simp] theorem zeroizeEffect_binary : (zeroizeEffect b).binary = b.binary := rfl
@[simp] theorem zeroizeEffect_code : (zeroizeEffect b).code = b.code := rfl
@[simp] theorem zeroizeEffect_bcdLo : (zeroizeEffect b).bcdLo = b.bcdLo := rfl
@[simp] theorem zeroizeEffect_bcdHi : (zeroizeEffect b).bcdHi = b.bcdHi := rfl
@[simp] theorem zeroizeEffect_ascii : (zeroizeEffect b).ascii = b.ascii := rfl
@[simp] theorem zeroizeEffect_digest : (zeroizeEffect b).digest = b.digest := rfl
@[simp] theorem zeroizeEffect_pendOp : (zeroizeEffect b).pendOp = b.pendOp := rfl

end Sys2Proof.Machine
end

