-- ==== Sys2Proof/Laws/State.lean ====
section
/-! SUPPORT. The fields of a state after each update, one lemma per field, so that no proof unfolds a record update. -/

namespace Sys2Proof.Machine

variable (b : Block) (s : State)

/-! ### The machine -/

@[simp] theorem withBlock_block : (s.withBlock b).block = b := rfl
@[simp] theorem withBlock_agenda : (s.withBlock b).agenda = s.agenda := rfl
@[simp] theorem withBlock_readData : (s.withBlock b).readData = s.readData := rfl
@[simp] theorem advance_block (es : List Event) : (advance es s).block = s.block := rfl
@[simp] theorem advance_agenda (es : List Event) : (advance es s).agenda = es := rfl
@[simp] theorem advance_readData (es : List Event) : (advance es s).readData = none := rfl
@[simp] theorem placeCommand_block (w : Word) : (placeCommand w s).block = idle s.block := rfl
@[simp] theorem placeCommand_agenda (w : Word) :
    (placeCommand w s).agenda = .write Reg.cmd.off w :: s.agenda := rfl
@[simp] theorem placeCommand_readData (w : Word) : (placeCommand w s).readData = s.readData := rfl

/-! ### setOverrun -/

@[simp] theorem setOverrun_ctrl : (setOverrun b).ctrl = b.ctrl := rfl
@[simp] theorem setOverrun_period : (setOverrun b).period = b.period := rfl
@[simp] theorem setOverrun_timeLo : (setOverrun b).timeLo = b.timeLo := rfl
@[simp] theorem setOverrun_timeHi : (setOverrun b).timeHi = b.timeHi := rfl
@[simp] theorem setOverrun_counterLo : (setOverrun b).counterLo = b.counterLo := rfl
@[simp] theorem setOverrun_counterHi : (setOverrun b).counterHi = b.counterHi := rfl
@[simp] theorem setOverrun_keylen : (setOverrun b).keylen = b.keylen := rfl
@[simp] theorem setOverrun_status : (setOverrun b).status = { b.status with overrun := true } := rfl
@[simp] theorem setOverrun_errInfo : (setOverrun b).errInfo = b.errInfo := rfl
@[simp] theorem setOverrun_irqEn : (setOverrun b).irqEn = b.irqEn := rfl
@[simp] theorem setOverrun_offset : (setOverrun b).offset = b.offset := rfl
@[simp] theorem setOverrun_binary : (setOverrun b).binary = b.binary := rfl
@[simp] theorem setOverrun_code : (setOverrun b).code = b.code := rfl
@[simp] theorem setOverrun_bcdLo : (setOverrun b).bcdLo = b.bcdLo := rfl
@[simp] theorem setOverrun_bcdHi : (setOverrun b).bcdHi = b.bcdHi := rfl
@[simp] theorem setOverrun_ascii : (setOverrun b).ascii = b.ascii := rfl
@[simp] theorem setOverrun_digest : (setOverrun b).digest = b.digest := rfl
@[simp] theorem setOverrun_key : (setOverrun b).key = b.key := rfl
@[simp] theorem setOverrun_pendOp : (setOverrun b).pendOp = b.pendOp := rfl

/-! ### reject -/

@[simp] theorem reject_ctrl (op cause code : BitVec 4) : (reject op cause code b).ctrl = b.ctrl := rfl
@[simp] theorem reject_period (op cause code : BitVec 4) : (reject op cause code b).period = b.period := rfl
@[simp] theorem reject_timeLo (op cause code : BitVec 4) : (reject op cause code b).timeLo = b.timeLo := rfl
@[simp] theorem reject_timeHi (op cause code : BitVec 4) : (reject op cause code b).timeHi = b.timeHi := rfl
@[simp] theorem reject_counterLo (op cause code : BitVec 4) :
    (reject op cause code b).counterLo = b.counterLo := rfl
@[simp] theorem reject_counterHi (op cause code : BitVec 4) :
    (reject op cause code b).counterHi = b.counterHi := rfl
@[simp] theorem reject_keylen (op cause code : BitVec 4) : (reject op cause code b).keylen = b.keylen := rfl
@[simp] theorem reject_status (op cause code : BitVec 4) :
    (reject op cause code b).status = { b.status with err := true, done := true } := rfl
@[simp] theorem reject_errInfo (op cause code : BitVec 4) :
    (reject op cause code b).errInfo = { op := op, cause := cause, code := code } := rfl
@[simp] theorem reject_irqEn (op cause code : BitVec 4) : (reject op cause code b).irqEn = b.irqEn := rfl
@[simp] theorem reject_offset (op cause code : BitVec 4) : (reject op cause code b).offset = b.offset := rfl
@[simp] theorem reject_binary (op cause code : BitVec 4) : (reject op cause code b).binary = b.binary := rfl
@[simp] theorem reject_code (op cause code : BitVec 4) : (reject op cause code b).code = b.code := rfl
@[simp] theorem reject_bcdLo (op cause code : BitVec 4) : (reject op cause code b).bcdLo = b.bcdLo := rfl
@[simp] theorem reject_bcdHi (op cause code : BitVec 4) : (reject op cause code b).bcdHi = b.bcdHi := rfl
@[simp] theorem reject_ascii (op cause code : BitVec 4) : (reject op cause code b).ascii = b.ascii := rfl
@[simp] theorem reject_digest (op cause code : BitVec 4) : (reject op cause code b).digest = b.digest := rfl
@[simp] theorem reject_key (op cause code : BitVec 4) : (reject op cause code b).key = b.key := rfl
@[simp] theorem reject_pendOp (op cause code : BitVec 4) : (reject op cause code b).pendOp = b.pendOp := rfl

/-! ### accept -/

@[simp] theorem accept_ctrl (op : BitVec 4) : (accept op b).ctrl = b.ctrl := rfl
@[simp] theorem accept_period (op : BitVec 4) : (accept op b).period = b.period := rfl
@[simp] theorem accept_timeLo (op : BitVec 4) : (accept op b).timeLo = b.timeLo := rfl
@[simp] theorem accept_timeHi (op : BitVec 4) : (accept op b).timeHi = b.timeHi := rfl
@[simp] theorem accept_counterLo (op : BitVec 4) : (accept op b).counterLo = b.counterLo := rfl
@[simp] theorem accept_counterHi (op : BitVec 4) : (accept op b).counterHi = b.counterHi := rfl
@[simp] theorem accept_keylen (op : BitVec 4) : (accept op b).keylen = b.keylen := rfl
@[simp] theorem accept_status (op : BitVec 4) :
    (accept op b).status = { b.status with done := false, busy := true } := rfl
@[simp] theorem accept_errInfo (op : BitVec 4) :
    (accept op b).errInfo = { op := op, cause := 0, code := codeNone } := rfl
@[simp] theorem accept_irqEn (op : BitVec 4) : (accept op b).irqEn = b.irqEn := rfl
@[simp] theorem accept_offset (op : BitVec 4) : (accept op b).offset = b.offset := rfl
@[simp] theorem accept_binary (op : BitVec 4) : (accept op b).binary = b.binary := rfl
@[simp] theorem accept_code (op : BitVec 4) : (accept op b).code = b.code := rfl
@[simp] theorem accept_bcdLo (op : BitVec 4) : (accept op b).bcdLo = b.bcdLo := rfl
@[simp] theorem accept_bcdHi (op : BitVec 4) : (accept op b).bcdHi = b.bcdHi := rfl
@[simp] theorem accept_ascii (op : BitVec 4) : (accept op b).ascii = b.ascii := rfl
@[simp] theorem accept_digest (op : BitVec 4) : (accept op b).digest = b.digest := rfl
@[simp] theorem accept_key (op : BitVec 4) : (accept op b).key = b.key := rfl
@[simp] theorem accept_pendOp (op : BitVec 4) : (accept op b).pendOp = op := rfl

/-! ### finish -/

@[simp] theorem finish_ctrl : (finish b).ctrl = b.ctrl := rfl
@[simp] theorem finish_period : (finish b).period = b.period := rfl
@[simp] theorem finish_timeLo : (finish b).timeLo = b.timeLo := rfl
@[simp] theorem finish_timeHi : (finish b).timeHi = b.timeHi := rfl
@[simp] theorem finish_counterLo : (finish b).counterLo = b.counterLo := rfl
@[simp] theorem finish_counterHi : (finish b).counterHi = b.counterHi := rfl
@[simp] theorem finish_keylen : (finish b).keylen = b.keylen := rfl
@[simp] theorem finish_status : (finish b).status = { b.status with busy := false, done := true } := rfl
@[simp] theorem finish_errInfo : (finish b).errInfo = b.errInfo := rfl
@[simp] theorem finish_irqEn : (finish b).irqEn = b.irqEn := rfl
@[simp] theorem finish_offset : (finish b).offset = b.offset := rfl
@[simp] theorem finish_binary : (finish b).binary = b.binary := rfl
@[simp] theorem finish_code : (finish b).code = b.code := rfl
@[simp] theorem finish_bcdLo : (finish b).bcdLo = b.bcdLo := rfl
@[simp] theorem finish_bcdHi : (finish b).bcdHi = b.bcdHi := rfl
@[simp] theorem finish_ascii : (finish b).ascii = b.ascii := rfl
@[simp] theorem finish_digest : (finish b).digest = b.digest := rfl
@[simp] theorem finish_key : (finish b).key = b.key := rfl
@[simp] theorem finish_pendOp : (finish b).pendOp = 0 := rfl

/-! ### writeStatus -/

@[simp] theorem writeStatus_ctrl (w : Word) : (writeStatus w b).ctrl = b.ctrl := rfl
@[simp] theorem writeStatus_period (w : Word) : (writeStatus w b).period = b.period := rfl
@[simp] theorem writeStatus_timeLo (w : Word) : (writeStatus w b).timeLo = b.timeLo := rfl
@[simp] theorem writeStatus_timeHi (w : Word) : (writeStatus w b).timeHi = b.timeHi := rfl
@[simp] theorem writeStatus_counterLo (w : Word) : (writeStatus w b).counterLo = b.counterLo := rfl
@[simp] theorem writeStatus_counterHi (w : Word) : (writeStatus w b).counterHi = b.counterHi := rfl
@[simp] theorem writeStatus_keylen (w : Word) : (writeStatus w b).keylen = b.keylen := rfl
@[simp] theorem writeStatus_status (w : Word) : (writeStatus w b).status = b.status.clearedBy w := rfl
@[simp] theorem writeStatus_errInfo (w : Word) : (writeStatus w b).errInfo = b.errInfo := rfl
@[simp] theorem writeStatus_irqEn (w : Word) : (writeStatus w b).irqEn = b.irqEn := rfl
@[simp] theorem writeStatus_offset (w : Word) : (writeStatus w b).offset = b.offset := rfl
@[simp] theorem writeStatus_binary (w : Word) : (writeStatus w b).binary = b.binary := rfl
@[simp] theorem writeStatus_code (w : Word) : (writeStatus w b).code = b.code := rfl
@[simp] theorem writeStatus_bcdLo (w : Word) : (writeStatus w b).bcdLo = b.bcdLo := rfl
@[simp] theorem writeStatus_bcdHi (w : Word) : (writeStatus w b).bcdHi = b.bcdHi := rfl
@[simp] theorem writeStatus_ascii (w : Word) : (writeStatus w b).ascii = b.ascii := rfl
@[simp] theorem writeStatus_digest (w : Word) : (writeStatus w b).digest = b.digest := rfl
@[simp] theorem writeStatus_key (w : Word) : (writeStatus w b).key = b.key := rfl
@[simp] theorem writeStatus_pendOp (w : Word) : (writeStatus w b).pendOp = b.pendOp := rfl

/-! ### writeIrqEn -/

@[simp] theorem writeIrqEn_ctrl (w : Word) : (writeIrqEn w b).ctrl = b.ctrl := rfl
@[simp] theorem writeIrqEn_period (w : Word) : (writeIrqEn w b).period = b.period := rfl
@[simp] theorem writeIrqEn_timeLo (w : Word) : (writeIrqEn w b).timeLo = b.timeLo := rfl
@[simp] theorem writeIrqEn_timeHi (w : Word) : (writeIrqEn w b).timeHi = b.timeHi := rfl
@[simp] theorem writeIrqEn_counterLo (w : Word) : (writeIrqEn w b).counterLo = b.counterLo := rfl
@[simp] theorem writeIrqEn_counterHi (w : Word) : (writeIrqEn w b).counterHi = b.counterHi := rfl
@[simp] theorem writeIrqEn_keylen (w : Word) : (writeIrqEn w b).keylen = b.keylen := rfl
@[simp] theorem writeIrqEn_status (w : Word) : (writeIrqEn w b).status = b.status := rfl
@[simp] theorem writeIrqEn_errInfo (w : Word) : (writeIrqEn w b).errInfo = b.errInfo := rfl
@[simp] theorem writeIrqEn_irqEn (w : Word) : (writeIrqEn w b).irqEn = IrqEn.ofWord w := rfl
@[simp] theorem writeIrqEn_offset (w : Word) : (writeIrqEn w b).offset = b.offset := rfl
@[simp] theorem writeIrqEn_binary (w : Word) : (writeIrqEn w b).binary = b.binary := rfl
@[simp] theorem writeIrqEn_code (w : Word) : (writeIrqEn w b).code = b.code := rfl
@[simp] theorem writeIrqEn_bcdLo (w : Word) : (writeIrqEn w b).bcdLo = b.bcdLo := rfl
@[simp] theorem writeIrqEn_bcdHi (w : Word) : (writeIrqEn w b).bcdHi = b.bcdHi := rfl
@[simp] theorem writeIrqEn_ascii (w : Word) : (writeIrqEn w b).ascii = b.ascii := rfl
@[simp] theorem writeIrqEn_digest (w : Word) : (writeIrqEn w b).digest = b.digest := rfl
@[simp] theorem writeIrqEn_key (w : Word) : (writeIrqEn w b).key = b.key := rfl
@[simp] theorem writeIrqEn_pendOp (w : Word) : (writeIrqEn w b).pendOp = b.pendOp := rfl

/-! ### idle -/

@[simp] theorem idle_ctrl : (idle b).ctrl = b.ctrl := rfl
@[simp] theorem idle_period : (idle b).period = b.period := rfl
@[simp] theorem idle_timeLo : (idle b).timeLo = b.timeLo := rfl
@[simp] theorem idle_timeHi : (idle b).timeHi = b.timeHi := rfl
@[simp] theorem idle_counterLo : (idle b).counterLo = b.counterLo := rfl
@[simp] theorem idle_counterHi : (idle b).counterHi = b.counterHi := rfl
@[simp] theorem idle_keylen : (idle b).keylen = b.keylen := rfl
@[simp] theorem idle_status : (idle b).status = { b.status with busy := false } := rfl
@[simp] theorem idle_errInfo : (idle b).errInfo = b.errInfo := rfl
@[simp] theorem idle_irqEn : (idle b).irqEn = b.irqEn := rfl
@[simp] theorem idle_offset : (idle b).offset = b.offset := rfl
@[simp] theorem idle_binary : (idle b).binary = b.binary := rfl
@[simp] theorem idle_code : (idle b).code = b.code := rfl
@[simp] theorem idle_bcdLo : (idle b).bcdLo = b.bcdLo := rfl
@[simp] theorem idle_bcdHi : (idle b).bcdHi = b.bcdHi := rfl
@[simp] theorem idle_ascii : (idle b).ascii = b.ascii := rfl
@[simp] theorem idle_digest : (idle b).digest = b.digest := rfl
@[simp] theorem idle_key : (idle b).key = b.key := rfl
@[simp] theorem idle_pendOp : (idle b).pendOp = 0 := rfl

/-! ### STATUS -/

@[simp] theorem clearedBy_busy (st : Status) (w : Word) : (st.clearedBy w).busy = st.busy := rfl
@[simp] theorem clearedBy_done (st : Status) (w : Word) : (st.clearedBy w).done = (st.done && !w.getLsbD 1) := rfl
@[simp] theorem clearedBy_err (st : Status) (w : Word) : (st.clearedBy w).err = (st.err && !w.getLsbD 2) := rfl
@[simp] theorem clearedBy_overrun (st : Status) (w : Word) :
    (st.clearedBy w).overrun = (st.overrun && !w.getLsbD 3) := rfl

end Sys2Proof.Machine
end

