-- ==== Sys2Proof/Laws/Flags.lean ====
section
/-! SUPPORT. The parameter checks, said as propositions, and when a command passes them. -/

namespace Sys2Proof.Machine

variable (b : Block)

theorem badPeriod_iff : badPeriod b = true ↔ b.period.toInt ≤ 0 := decide_eq_true_iff

theorem badAlg_iff : badAlg b = true ↔ b.ctrl.alg = 3 := decide_eq_true_iff

theorem badKeylen_iff : badKeylen b = true ↔ 256 < b.keylen.toNat := decide_eq_true_iff

theorem badDigits_iff : badDigits b = true ↔ ¬(6 ≤ b.ctrl.digits.toNat ∧ b.ctrl.digits.toNat ≤ 10) := by
  unfold badDigits digitsOf
  by_cases h : 6 ≤ b.ctrl.digits.toNat <;> by_cases h' : b.ctrl.digits.toNat ≤ 10 <;> simp [h, h']

/-- A mask of four flags is 0 exactly when each flag is clear. -/
theorem mask_eq_zero (d c x a : Bool) :
    (BitVec.ofBool d ++ BitVec.ofBool c ++ BitVec.ofBool x ++ BitVec.ofBool a : BitVec 4) = 0 ↔
      a = false ∧ x = false ∧ c = false ∧ d = false := by
  revert d c x a
  decide

/-- A check of an operand that a command may not read is clear when, if read, the operand is legal. -/
theorem check_clear_iff {reads bad : Bool} {legal : Prop} (h : bad = true ↔ ¬legal) :
    (reads && bad) = false ↔ (reads = true → legal) := by
  cases reads <;> cases bad <;> simp_all

/-- A command passes its checks exactly when each operand it reads is legal (60_exceptions.md R254). -/
theorem checks_eq_zero_iff (i : Instr) :
    checks i b = 0 ↔
      (readsPeriod i = true → 1 ≤ b.period.toInt) ∧ (readsAlg i = true → b.ctrl.alg ≠ 3) ∧
        (readsKey i = true → b.keylen.toNat ≤ 256) ∧
        (readsDigits i = true → 6 ≤ b.ctrl.digits.toNat ∧ b.ctrl.digits.toNat ≤ 10) := by
  rw [checks, mask_eq_zero]
  refine and_congr (check_clear_iff ?_) (and_congr (check_clear_iff ?_) (and_congr (check_clear_iff ?_)
    (check_clear_iff (badDigits_iff b))))
  · rw [badPeriod_iff]; omega
  · rw [badAlg_iff]; exact not_not.symm
  · rw [badKeylen_iff]; omega

/-- The algorithm of a legal CTRL.ALG (30_encoding.md R106). -/
theorem hashAlgOf_eq_none_iff (alg : BitVec 2) : hashAlgOf alg = none ↔ alg = 3 := by
  revert alg
  decide

end Sys2Proof.Machine
end

