-- ==== Sys2Proof/Laws/Operands.lean ====
section
/-! SUPPORT. What the operand helpers compute, in naturals: bytes of a window, words of four bytes, 64-bit values of two
words, byte strings. -/

namespace Sys2Proof.Machine

/-! ### Byte windows -/

theorem byteAt_get {n : Nat} (v : Vector Byte n) {i : Nat} (h : i < n) : byteAt v i = v[i].toNat := by
  simp [byteAt, h]

theorem byteAt_lt {n : Nat} (v : Vector Byte n) (i : Nat) : byteAt v i < 256 := BitVec.isLt _

theorem byteAt_ofFn {n : Nat} (f : Fin n → Byte) {i : Nat} (h : i < n) :
    byteAt (Vector.ofFn f) i = (f ⟨i, h⟩).toNat := by
  rw [byteAt_get _ h]
  simp

/-- Four bytes in a word, the first most significant. -/
theorem fourBytes_toNat (a b c d : Byte) :
    (a ++ b ++ c ++ d : BitVec 32).toNat = a.toNat * 2 ^ 24 + b.toNat * 2 ^ 16 + c.toNat * 2 ^ 8 + d.toNat := by
  have := a.isLt
  have := b.isLt
  have := c.isLt
  have := d.isLt
  simp only [BitVec.toNat_append, Nat.shiftLeft_eq]
  rw [Nat.mul_comm _ (2 ^ 8), Nat.mul_comm _ (2 ^ 8), Nat.mul_comm _ (2 ^ 8),
    ← Nat.two_pow_add_eq_or_of_lt (by omega), ← Nat.two_pow_add_eq_or_of_lt (by omega),
    ← Nat.two_pow_add_eq_or_of_lt (by omega)]
  omega

/-- A byte of a stored word, by its place in the word. -/
theorem byteOfWord_toNat (w : Word) (j : Nat) : (byteOfWord w j).toNat = w.toNat / 2 ^ (24 - 8 * j) % 256 := by
  rw [byteOfWord, BitVec.extractLsb'_toNat, Nat.shiftRight_eq_div_pow]

/-- Everything a word store does to a window (20_memory.md R73). -/
theorem byteAt_storeWord {n : Nat} (v : Vector Byte n) (k : Nat) (w : Word) {i : Nat} (h : i < n) :
    byteAt (storeWord v k w) i = if i / 4 = k then (byteOfWord w (i % 4)).toNat else byteAt v i := by
  rw [byteAt_get _ h, byteAt_get _ h, storeWord]
  simp
  split <;> rfl

/-! ### 64-bit values and byte strings -/

/-- `{HI, LO}` as a natural (20_memory.md R74). -/
theorem twoWords_toNat (hi lo : Word) : (hi ++ lo).toNat = hi.toNat * 2 ^ 32 + lo.toNat := by
  rw [BitVec.toNat_append, Nat.shiftLeft_eq, Nat.mul_comm, ← Nat.two_pow_add_eq_or_of_lt lo.isLt]

theorem beBytes_length (n v : Nat) : (beBytes n v).length = n := by
  induction n with
  | zero => rfl
  | succ n ih => simp [beBytes, ih]

/-- A legal PERIOD is the register's own unsigned value (30_encoding.md R105). -/
theorem periodOf_toNat {b : Block} (h : 1 ≤ b.period.toInt) : (periodOf b).toNat = b.period.toNat := by
  unfold periodOf
  have := BitVec.toInt_eq_toNat_cond b.period
  have := b.period.isLt
  split at * <;> omega

/-- A legal algorithm is not the reserved ALG value. -/
theorem alg_ne_reserved {a : BitVec 2} {alg : HashAlg} (h : hashAlgOf a = some alg) : a ≠ 3 := by
  rintro rfl
  cases h

/-! ### Nibbles -/

theorem digitNibble_toNat (code i : Nat) : (digitNibble code i).toNat = code / 10 ^ i % 10 := by
  rw [digitNibble, decimalDigit, BitVec.toNat_ofNat]
  omega

/-- Nibble i of eight nibbles written most significant first. -/
theorem nibble_of_eight (a b c d e f g h : BitVec 4) {i : Nat} (hi : i < 8) :
    (a ++ b ++ c ++ d ++ e ++ f ++ g ++ h : BitVec 32).extractLsb' (4 * i) 4 = [h, g, f, e, d, c, b, a].getD i 0 := by
  interval_cases i <;>
    (apply BitVec.eq_of_toNat_eq; simp only [BitVec.extractLsb'_toNat, BitVec.toNat_append, Nat.shiftLeft_eq])
  all_goals
    rw [Nat.mul_comm _ (2 ^ 4), Nat.mul_comm _ (2 ^ 4), Nat.mul_comm _ (2 ^ 4), Nat.mul_comm _ (2 ^ 4),
      Nat.mul_comm _ (2 ^ 4), Nat.mul_comm _ (2 ^ 4), Nat.mul_comm _ (2 ^ 4)]
    iterate 7 rw [← Nat.two_pow_add_eq_or_of_lt (BitVec.isLt _)]
    have := a.isLt
    have := b.isLt
    have := c.isLt
    have := d.isLt
    have := e.isLt
    have := f.isLt
    have := g.isLt
    have := h.isLt
    simp [Nat.shiftRight_eq_div_pow]
    omega

/-- Nibble i of two nibbles written most significant first. -/
theorem nibble_of_two (a b : BitVec 4) {i : Nat} (hi : i < 2) :
    (a ++ b : BitVec 8).extractLsb' (4 * i) 4 = [b, a].getD i 0 := by
  interval_cases i <;> revert a b <;> decide

/-! ### What each result is -/

/-- The DIGEST window after HMAC holds the digest (41_hmac.md R155). -/
theorem digestWindow_holds (alg : HashAlg) (dig : List Byte) : HoldsDigest alg dig (digestWindow alg dig) := by
  intro i hi
  rw [digestWindow, byteAt_ofFn _ hi]
  dsimp only
  split <;> simp

theorem truncOffset_toNat (alg : HashAlg) (b : Block) :
    (truncOffset alg b).toNat = byteAt b.digest (digestLen alg - 1) % 16 := by
  rw [truncOffset, BitVec.extractLsb'_toNat]
  simp [byteAt, digestByte]

theorem clearTopBit_toNat (x : Byte) : (x &&& 0x7F).toNat = x.toNat % 128 := by
  revert x
  decide +kernel

/-- REDUCE's CODE (44_decimal_reduction.md R216). -/
theorem reduceEffect_code_toNat (b : Block) : (reduceEffect b).code.toNat = codeValue (binaryOf b) (digitsOf b) := by
  simp only [reduceEffect]
  rw [BitVec.toNat_ofNat]
  exact Nat.mod_eq_of_lt (Nat.lt_of_le_of_lt (Nat.mod_le _ _) b.binary.isLt)

/-- A byte of the CODE_ASCII window (44_decimal_reduction.md R218). -/
theorem byteAt_asciiWindow (code d : Nat) {j : Nat} (hj : j < 16) :
    byteAt (asciiWindow code d) j = if j < d then 0x30 + code / 10 ^ (d - 1 - j) % 10 else 0 := by
  rw [asciiWindow, byteAt_ofFn _ hj]
  dsimp only [asciiByte, decimalDigit]
  split
  · rw [BitVec.toNat_ofNat]
    omega
  · rfl

/-- The first k decimal digits of n sum to n mod 10^k. -/
theorem sum_of_digits (n k : Nat) : ((List.range k).map fun i => n / 10 ^ i % 10 * 10 ^ i).sum = n % 10 ^ k := by
  induction k with
  | zero => simp [Nat.mod_one]
  | succ k ih =>
    rw [List.range_succ, List.map_append, List.sum_append, ih, Nat.pow_succ, Nat.mod_mul]
    simp
    ring

/-! ### Each effect ignores STATUS, ERRINFO and PEND_OP -/

/-- The block with other STATUS, ERRINFO and PEND_OP: what acceptance and completion write. -/
def Block.withControl (b : Block) (x : Status) (e : ErrInfo) (p : BitVec 4) : Block :=
  { b with status := x, errInfo := e, pendOp := p }

variable (x : Status) (e : ErrInfo) (p : BitVec 4) (b : Block)

theorem convEffect_withControl : convEffect (b.withControl x e p) = (convEffect b).withControl x e p := rfl

theorem hmacEffect_withControl : hmacEffect (b.withControl x e p) = (hmacEffect b).withControl x e p := by
  unfold Block.withControl hmacEffect
  dsimp only
  split <;> rfl

theorem truncEffect_withControl : truncEffect (b.withControl x e p) = (truncEffect b).withControl x e p := by
  unfold Block.withControl truncEffect
  dsimp only
  split <;> rfl

theorem reduceEffect_withControl : reduceEffect (b.withControl x e p) = (reduceEffect b).withControl x e p := rfl

theorem withControl_twice (x' : Status) (e' : ErrInfo) (p' : BitVec 4) :
    (b.withControl x' e' p').withControl x e p = b.withControl x e p := rfl

theorem accept_eq_withControl (op : BitVec 4) :
    accept op b = b.withControl { b.status with done := false, busy := true }
      { op := op, cause := 0, code := codeNone } op := rfl

theorem finish_eq_withControl :
    finish b = b.withControl { b.status with done := true, busy := false } b.errInfo 0 := rfl

end Sys2Proof.Machine
end

