-- ==== Sys2Proof/Laws/Ops.lean ====
section
/-! SUPPORT. What each shared operation can do, said once: a command's two steps, the CMD write, the register write, the
engine's turn, and the machine's step. Later proofs cite these and do not unfold the operations. -/

namespace Sys2Proof.Machine

/-- The effect of each command on the registers at its completion (10_state.md R46). -/
def effectOf : Instr → Block → Block
  | .conv => convEffect
  | .hmac => hmacEffect
  | .trunc => truncEffect
  | .reduce => reduceEffect
  | .hotp => hotpEffect
  | .totp => totpEffect
  | .zeroize => zeroizeEffect

/-- Every arm of `exec` is the shared `command` over its instruction's effect. -/
theorem exec_eq_command (i : Instr) (s : State) : exec i s = command i (effectOf i) s := by
  cases i <;> rfl

@[simp] theorem effectOf_status (i : Instr) (b : Block) : (effectOf i b).status = b.status := by
  cases i <;> simp [effectOf]
@[simp] theorem effectOf_errInfo (i : Instr) (b : Block) : (effectOf i b).errInfo = b.errInfo := by
  cases i <;> simp [effectOf]
@[simp] theorem effectOf_irqEn (i : Instr) (b : Block) : (effectOf i b).irqEn = b.irqEn := by
  cases i <;> simp [effectOf]
@[simp] theorem effectOf_pendOp (i : Instr) (b : Block) : (effectOf i b).pendOp = b.pendOp := by
  cases i <;> simp [effectOf]

/-! ### A command's two steps -/

/-- In the idle block a command is issued: it always answers a next state. -/
theorem exec_idle {i : Instr} {s : State} (h : s.block.status.busy = false) :
    exec i s = .next (s.withBlock (issue i s.block)) := by
  simp [exec_eq_command, command, h]

/-- In the busy block a command whose checks pass completes. -/
theorem exec_busy {i : Instr} {s : State} (h : s.block.status.busy = true) (hc : checks i s.block = 0) :
    exec i s = .next (s.withBlock (finish (effectOf i s.block))) := by
  simp [exec_eq_command, command, complete, h, hc]

/-- In the busy block a command with a failed check is stuck. -/
theorem exec_busy_unchecked {i : Instr} {s : State} (h : s.block.status.busy = true) (hc : checks i s.block ≠ 0) :
    exec i s = .fault .engineUncheckedOperands := by
  rw [exec_eq_command, command, if_pos h, complete, if_neg hc]

/-- Everything a command can do when it answers a next state. -/
theorem exec_next {i : Instr} {s t : State} (h : exec i s = .next t) :
    (s.block.status.busy = false ∧ t = s.withBlock (issue i s.block)) ∨
      (s.block.status.busy = true ∧ checks i s.block = 0 ∧ t = s.withBlock (finish (effectOf i s.block))) := by
  cases hb : s.block.status.busy
  · rw [exec_idle hb] at h
    exact .inl ⟨rfl, (Host.Outcome.next.inj h).symm⟩
  · by_cases hc : checks i s.block = 0
    · rw [exec_busy hb hc] at h
      exact .inr ⟨rfl, hc, (Host.Outcome.next.inj h).symm⟩
    · rw [exec_busy_unchecked hb hc] at h
      cases h

/-- The issue of a command is an acceptance or a rejection with a nonzero CAUSE. -/
theorem issue_cases (i : Instr) (b : Block) :
    (checks i b = 0 ∧ issue i b = accept (opcode i) b) ∨
      (checks i b ≠ 0 ∧ issue i b = reject (opcode i) (checks i b) codeInvalidParameter b) := by
  by_cases h : checks i b = 0
  · exact .inl ⟨h, if_pos h⟩
  · exact .inr ⟨h, if_neg h⟩

/-! ### The CMD write -/

/-- Everything a CMD write can do (60_exceptions.md R255, R258): the block is overrun, the opcode is illegal, or the
command is issued. -/
theorem cmdWrite_cases (w : Word) (s : State) :
    (s.block.status.busy = true ∧ cmdWrite w s = .next (s.withBlock (setOverrun s.block))) ∨
      (∃ op, s.block.status.busy = false ∧ decode w = .error (.illegalCommand op) ∧
        cmdWrite w s = .next (s.withBlock (rejectIllegal op s.block))) ∨
      (∃ i, s.block.status.busy = false ∧ decode w = .ok i ∧
        cmdWrite w s = .next (s.withBlock (issue i s.block))) := by
  cases hb : s.block.status.busy
  · rcases hd : decode w with ⟨⟨op⟩⟩ | i
    · exact .inr (.inl ⟨op, rfl, rfl, by simp [cmdWrite, hb, hd]⟩)
    · exact .inr (.inr ⟨i, rfl, rfl, by simp [cmdWrite, hb, hd, exec_idle hb]⟩)
  · exact .inl ⟨rfl, by simp [cmdWrite, hb]⟩

/-! ### The register write -/

/-- Everything a write that is no CMD write can do to the block (20_memory.md R81). -/
theorem registerWrite_cases (off : BitVec 12) (w : Word) (b : Block) :
    (regAt off = some .status ∧ registerWrite off w b = writeStatus w b) ∨
      (regAt off = some .irqEn ∧ registerWrite off w b = writeIrqEn w b) ∨
      (∃ r, regAt off = some r ∧ isInput r = true ∧ b.status.busy = true ∧ registerWrite off w b = setOverrun b) ∨
      (∃ r, regAt off = some r ∧ isInput r = true ∧ b.status.busy = false ∧
        registerWrite off w b = storeInput w b r) ∨
      registerWrite off w b = b := by
  rcases hr : regAt off with _ | r
  · simp [registerWrite, hr]
  · cases hb : b.status.busy <;> cases r <;> simp [registerWrite, hr, isInput, inputWrite, hb]

/-! ### The engine's turn -/

/-- Everything the engine's turn can do (10_state.md R46): nothing while idle; while busy the pending command's
completion, or a stop in a state the spec says never occurs. -/
theorem engineTurn_cases (s : State) :
    (s.block.status.busy = false ∧ engineTurn s = .next s) ∨
      (∃ i, s.block.status.busy = true ∧ ofOpcode s.block.pendOp = some i ∧ checks i s.block = 0 ∧
        engineTurn s = .next (s.withBlock (finish (effectOf i s.block)))) ∨
      (s.block.status.busy = true ∧ ∃ f, engineTurn s = .fault f) := by
  cases hb : s.block.status.busy
  · exact .inl ⟨rfl, by simp [engineTurn, hb]⟩
  · rcases hp : ofOpcode s.block.pendOp with _ | i
    · exact .inr (.inr ⟨rfl, .engineIllegalOp, by simp [engineTurn, hb, hp]⟩)
    · by_cases hc : checks i s.block = 0
      · exact .inr (.inl ⟨i, rfl, rfl, hc, by simp [engineTurn, hb, hp, exec_busy hb hc]⟩)
      · exact .inr (.inr ⟨rfl, .engineUncheckedOperands, by simp [engineTurn, hb, hp, exec_busy_unchecked hb hc]⟩)

/-- The engine's turn, as it changes the block. -/
theorem engineTurn_block {s t : State} (h : engineTurn s = .next t) :
    (s.block.status.busy = false ∧ t.block = s.block) ∨
      ∃ i, s.block.status.busy = true ∧ ofOpcode s.block.pendOp = some i ∧ checks i s.block = 0 ∧
        t.block = finish (effectOf i s.block) := by
  rcases engineTurn_cases s with ⟨hb, h'⟩ | ⟨i, hb, hp, hc, h'⟩ | ⟨hb, f, h'⟩ <;> rw [h'] at h <;> cases h
  · exact .inl ⟨hb, rfl⟩
  · exact .inr ⟨i, hb, hp, hc, rfl⟩

/-! ### The step -/

/-- With nothing pending at the port, a step is the engine's turn. -/
theorem step_nil {s : State} (h : s.agenda = []) : step s = engineTurn (advance [] s) := by
  simp [step, nextStep, h]

/-- With a step pending at the port, a step takes it. -/
theorem step_cons {s : State} {e : Event} {rest : List Event} (h : s.agenda = e :: rest) :
    step s = runEvent e (advance rest s) := by
  simp [step, nextStep, h]

/-- Everything a step can do to a block `b` when it answers a next state whose block is `c`. -/
inductive BlockStep (b c : Block) : Prop where
  /-- A read, an ignored write, or an engine's turn while idle. -/
  | same (h : c = b)
  /-- A dropped write. -/
  | overrun (hb : b.status.busy = true) (h : c = setOverrun b)
  /-- The rejection of an illegal opcode. -/
  | illegal (op : BitVec 4) (hb : b.status.busy = false) (h : c = rejectIllegal op b)
  /-- The acceptance of a command whose checks pass. -/
  | accepted (i : Instr) (hb : b.status.busy = false) (hc : checks i b = 0) (h : c = accept (opcode i) b)
  /-- The rejection of a command with a failed check. -/
  | rejected (i : Instr) (hb : b.status.busy = false) (hc : checks i b ≠ 0)
    (h : c = reject (opcode i) (checks i b) codeInvalidParameter b)
  /-- A write of STATUS. -/
  | status (w : Word) (h : c = writeStatus w b)
  /-- A write of IRQ_EN. -/
  | irqEn (w : Word) (h : c = writeIrqEn w b)
  /-- A write of an input register of the idle block. -/
  | input (r : Reg) (w : Word) (hr : isInput r = true) (hb : b.status.busy = false) (h : c = storeInput w b r)
  /-- The completion of the pending command. -/
  | completed (i : Instr) (hb : b.status.busy = true) (hp : ofOpcode b.pendOp = some i) (hc : checks i b = 0)
    (h : c = finish (effectOf i b))
  /-- The reset step. -/
  | reset (h : c = Block.reset)

/-- The engine's turn is a `BlockStep`. -/
theorem engineTurn_blockStep {s t : State} (h : engineTurn s = .next t) : BlockStep s.block t.block := by
  rcases engineTurn_cases s with ⟨hb, h'⟩ | ⟨i, hb, hp, hc, h'⟩ | ⟨hb, f, h'⟩ <;> rw [h'] at h <;> cases h
  · exact .same rfl
  · exact .completed i hb hp hc rfl

/-- The CMD write is a `BlockStep`. -/
theorem cmdWrite_blockStep {w : Word} {s t : State} (h : cmdWrite w s = .next t) : BlockStep s.block t.block := by
  rcases cmdWrite_cases w s with ⟨hb, h'⟩ | ⟨op, hb, -, h'⟩ | ⟨i, hb, -, h'⟩ <;> rw [h'] at h <;> cases h
  · exact .overrun hb rfl
  · exact .illegal op hb rfl
  · rcases issue_cases i s.block with ⟨hc, hi⟩ | ⟨hc, hi⟩
    · exact .accepted i hb hc hi
    · exact .rejected i hb hc hi

/-- A register write is a `BlockStep`. -/
theorem registerWrite_blockStep (off : BitVec 12) (w : Word) (b : Block) : BlockStep b (registerWrite off w b) := by
  rcases registerWrite_cases off w b with ⟨-, h⟩ | ⟨-, h⟩ | ⟨r, -, -, hb, h⟩ | ⟨r, -, hr, hb, h⟩ | h
  · exact .status w h
  · exact .irqEn w h
  · exact .overrun hb h
  · exact .input r w hr hb h
  · exact .same h

/-- An event is a `BlockStep`. -/
theorem runEvent_blockStep {e : Event} {s t : State} (h : runEvent e s = .next t) : BlockStep s.block t.block := by
  cases e with
  | read off => cases h; exact .same rfl
  | write off w =>
    simp only [runEvent, busWrite] at h
    split at h
    · exact cmdWrite_blockStep h
    · cases h; exact registerWrite_blockStep off w s.block
  | engine => exact engineTurn_blockStep h
  | reset => cases h; exact .reset rfl

/-- EVERYTHING A STEP CAN DO to the block, said once. -/
theorem step_blockStep {s t : State} (h : step s = .next t) : BlockStep s.block t.block := by
  rcases ha : s.agenda with _ | ⟨e, rest⟩
  · rw [step_nil ha] at h; exact engineTurn_blockStep (s := advance [] s) h
  · rw [step_cons ha] at h; exact runEvent_blockStep (s := advance rest s) h

/-- A command keeps what stands at the port. -/
theorem exec_port {i : Instr} {s t : State} (h : exec i s = .next t) :
    t.agenda = s.agenda ∧ t.readData = s.readData := by
  rcases exec_next h with ⟨-, rfl⟩ | ⟨-, -, rfl⟩ <;> exact ⟨rfl, rfl⟩

/-- The engine's turn keeps what stands at the port. -/
theorem engineTurn_port {s t : State} (h : engineTurn s = .next t) :
    t.agenda = s.agenda ∧ t.readData = s.readData := by
  rcases engineTurn_cases s with ⟨-, h'⟩ | ⟨i, -, -, -, h'⟩ | ⟨-, f, h'⟩ <;> rw [h'] at h <;> cases h <;>
    exact ⟨rfl, rfl⟩

/-- A step takes exactly one step off the agenda; nothing else touches it. -/
theorem step_agenda {s t : State} (h : step s = .next t) : t.agenda = s.agenda.tail := by
  rcases ha : s.agenda with _ | ⟨e, rest⟩
  · rw [step_nil ha] at h; exact (engineTurn_port h).1
  · rw [step_cons ha] at h
    cases e with
    | read off => cases h; rfl
    | write off w =>
      simp only [runEvent, busWrite] at h
      split at h
      · rcases cmdWrite_cases w (advance rest s) with ⟨-, h'⟩ | ⟨op, -, -, h'⟩ | ⟨i, -, -, h'⟩ <;> rw [h'] at h <;>
          cases h <;> rfl
      · cases h; rfl
    | engine => exact (engineTurn_port h).1
    | reset => cases h; rfl

end Sys2Proof.Machine
end

