-- ==== Sys2Proof/Laws/PerInstr.lean ====
section
/-! SUPPORT. The per-instruction family `Encoding`: for every command, its opcode is legal and read back, and every CMD
word of it is well formed (30_encoding.md R100, R101, R103, R108). -/

namespace Sys2Proof.Laws.Encoding

/-- What holds of a command as syntax: well formed, its opcode legal and read back, and every word of it well formed,
whatever its ignored bits. -/
def Statement (i : Instr) : Prop :=
  i.wellFormed = true ∧ legalOp (opcode i) = true ∧ ofOpcode (opcode i) = some i ∧
    ∀ x : BitVec 28, wellFormedWord (encodeWith x i) = true

/-- The part that depends on the command, from which the rest follows. -/
theorem of_opcode {i : Instr} (hw : i.wellFormed = true) (hl : legalOp (opcode i) = true) : Statement i := by
  refine ⟨hw, hl, ofOpcode_opcode i, fun x => ?_⟩
  show legalOp (opField (encodeWith x i)) = true
  rw [opField_encodeWith, hl]

theorem conv : Statement .conv := of_opcode rfl (by decide)
theorem hmac : Statement .hmac := of_opcode rfl (by decide)
theorem trunc : Statement .trunc := of_opcode rfl (by decide)
theorem reduce : Statement .reduce := of_opcode rfl (by decide)
theorem hotp : Statement .hotp := of_opcode rfl (by decide)
theorem totp : Statement .totp := of_opcode rfl (by decide)
theorem zeroize : Statement .zeroize := of_opcode rfl (by decide)

end Sys2Proof.Laws.Encoding
end

