-- ==== Sys2Proof/Laws/RegMap.lean ====
section
/-! SUPPORT. The address decoder and the register map: which register an offset reaches, what a write to it does, and
what a store to an input register keeps. -/

namespace Sys2Proof.Machine

/-! ### Which register an offset reaches -/

theorem regAt_of_word {off o : BitVec 12} (h : off &&& 0xFFC = o) : regAt off = regAtWord o.toNat := by
  simp [regAt, wordOffset, ← h]

theorem wordRegAt_eq_none {o : Nat} (h : 0x044 < o) : wordRegAt o = none := by
  unfold wordRegAt
  split <;> first | rfl | omega

/-- The reserved word offsets (20_memory.md R72). -/
theorem regAtWord_reserved {o : Nat} (h : o = 0x048 ∨ o = 0x04C ∨ (0x060 ≤ o ∧ o ≤ 0x0FC) ∨ (0x140 ≤ o ∧ o ≤ 0x1FC) ∨
    0x300 ≤ o) : regAtWord o = none := by
  unfold regAtWord
  rw [if_neg (by omega), if_neg (by omega), if_neg (by omega)]
  exact wordRegAt_eq_none (by omega)

theorem regAtWord_ascii {k : Nat} (h : k < 4) :
    regAtWord (BitVec.ofNat 12 (0x050 + 4 * k)).toNat = some (.codeAscii ⟨k, h⟩) := by
  interval_cases k <;> rfl

theorem regAtWord_digest {k : Nat} (h : k < 16) :
    regAtWord (BitVec.ofNat 12 (0x100 + 4 * k)).toNat = some (.digest ⟨k, h⟩) := by
  interval_cases k <;> rfl

theorem regAtWord_key {k : Nat} (h : k < 64) :
    regAtWord (BitVec.ofNat 12 (0x200 + 4 * k)).toNat = some (.key ⟨k, h⟩) := by
  interval_cases k <;> rfl

/-! ### The bus steps -/

variable {s : State} {off : BitVec 12} {w : Word} {rest : List Event} {b : Block} {r : Reg}

/-- Everything a read step does (20_memory.md R80). -/
theorem step_read (h : s.agenda = .read off :: rest) :
    step s = .next { s with agenda := rest, readData := some (busReadWord off s.block) } := by
  rw [step_cons h]
  rfl

theorem step_write (h : s.agenda = .write off w :: rest) : step s = busWrite off w (advance rest s) := by
  rw [step_cons h]
  rfl

/-- Everything a write step does that is no CMD write. -/
theorem step_registerWrite (h : s.agenda = .write off w :: rest) (hr : regAt off ≠ some .cmd) :
    step s = .next { s with agenda := rest, readData := none, block := registerWrite off w s.block } := by
  rw [step_write h, busWrite, if_neg hr]
  rfl

/-- A write step at CMD. -/
theorem step_cmdWrite (h : s.agenda = .write off w :: rest) (hr : regAt off = some .cmd) :
    step s = cmdWrite w (advance rest s) := by
  rw [step_write h, busWrite, if_pos hr]

/-- A write to an input register (20_memory.md R81). -/
theorem registerWrite_input (hr : regAt off = some r) (hi : isInput r = true) :
    registerWrite off w b = if b.status.busy then setOverrun b else storeInput w b r := by
  cases r <;> first | (cases hi; done) | (simp only [registerWrite, hr]; rfl)

/-- A write that reaches no writable register does nothing (20_memory.md R72, R81). -/
theorem registerWrite_ignored (h : ∀ q, regAt off = some q → isInput q = false ∧ q ≠ .status ∧ q ≠ .irqEn) :
    registerWrite off w b = b := by
  unfold registerWrite
  rcases hr : regAt off with _ | q
  · rfl
  · obtain ⟨h1, h2, h3⟩ := h q hr
    cases q <;> simp_all

/-! ### What a store to an input register keeps -/

variable (w b r)

@[simp] theorem storeInput_status : (storeInput w b r).status = b.status := by cases r <;> simp [storeInput]
@[simp] theorem storeInput_errInfo : (storeInput w b r).errInfo = b.errInfo := by cases r <;> simp [storeInput]
@[simp] theorem storeInput_irqEn : (storeInput w b r).irqEn = b.irqEn := by cases r <;> simp [storeInput]
@[simp] theorem storeInput_pendOp : (storeInput w b r).pendOp = b.pendOp := by cases r <;> simp [storeInput]
@[simp] theorem storeInput_offset : (storeInput w b r).offset = b.offset := by cases r <;> simp [storeInput]
@[simp] theorem storeInput_code : (storeInput w b r).code = b.code := by cases r <;> simp [storeInput]
@[simp] theorem storeInput_bcdLo : (storeInput w b r).bcdLo = b.bcdLo := by cases r <;> simp [storeInput]
@[simp] theorem storeInput_bcdHi : (storeInput w b r).bcdHi = b.bcdHi := by cases r <;> simp [storeInput]
@[simp] theorem storeInput_ascii : (storeInput w b r).ascii = b.ascii := by cases r <;> simp [storeInput]

end Sys2Proof.Machine
end

