-- ==== Sys2Proof/Laws/Runs.lean ====
section
/-! SUPPORT. Runs of several steps, and the steps a run of commands is made of. -/

namespace Sys2Proof.Machine

theorem runsTo_zero {s t : State} : RunsTo 0 s t ↔ s = t :=
  ⟨fun h => Host.Outcome.next.inj h, fun h => congrArg Host.Outcome.next h⟩

theorem runsTo_succ {n : Nat} {s t : State} : RunsTo (n + 1) s t ↔ ∃ u, step s = .next u ∧ RunsTo n u t := by
  simp only [RunsTo, Host.Core.run]
  split
  · rename_i u h
    have h : step s = .next u := h
    exact ⟨fun h' => ⟨u, h, h'⟩, fun ⟨v, h1, h2⟩ => by rw [h] at h1; cases h1; exact h2⟩
  · rename_i f h
    have h : step s = .fault f := h
    exact ⟨fun h => (nomatch h), fun ⟨v, h1, h2⟩ => by rw [h] at h1; cases h1⟩
  · rename_i f h
    have h : step s = .refused f := h
    exact ⟨fun h => (nomatch h), fun ⟨v, h1, h2⟩ => by rw [h] at h1; cases h1⟩

theorem runsTo_add {m n : Nat} {s t u : State} (h : RunsTo m s t) (h' : RunsTo n t u) : RunsTo (m + n) s u := by
  induction m generalizing s with
  | zero =>
    rw [runsTo_zero] at h
    subst h
    simpa using h'
  | succ m ih =>
    rw [runsTo_succ] at h
    obtain ⟨v, h1, h2⟩ := h
    rw [show m + 1 + n = (m + n) + 1 by omega, runsTo_succ]
    exact ⟨v, h1, ih h2⟩

/-! ### A command's two steps, as steps of the machine -/

theorem decode_encode_plain (i : Instr) : decode (encode i) = .ok i := by
  cases i <;> decide

/-- The accepted CMD write of a command. -/
theorem step_commandEvent {s : State} {i : Instr} {rest : List Event} (ha : s.agenda = commandEvent i :: rest)
    (hb : s.block.status.busy = false) (hc : checks i s.block = 0) :
    step s = .next { block := accept (opcode i) s.block, agenda := rest, readData := none } := by
  rw [step_cmdWrite ha (by decide), cmdWrite, if_neg (by simpa using hb), decode_encode_plain]
  show exec i _ = _
  rw [exec_idle (by exact hb)]
  simp [State.withBlock, issue, advance, hc]

/-- The completion of the pending command. -/
theorem step_engineEvent {s : State} {i : Instr} {rest : List Event} (ha : s.agenda = .engine :: rest)
    (hb : s.block.status.busy = true) (hp : s.block.pendOp = opcode i) (hc : checks i s.block = 0) :
    step s = .next { block := finish (effectOf i s.block), agenda := rest, readData := none } := by
  rw [step_cons ha]
  simp only [runEvent, engineTurn]
  rw [if_pos (by exact hb), show (advance rest s).block.pendOp = opcode i from hp, ofOpcode_opcode]
  show exec i _ = _
  rw [exec_busy (by exact hb) (by exact hc)]
  rfl

/-- A command accepted and completed at once. -/
theorem runsTo_command {s : State} {i : Instr} {rest : List Event}
    (ha : s.agenda = commandEvent i :: .engine :: rest) (hb : s.block.status.busy = false)
    (hc : checks i s.block = 0) :
    RunsTo 2 s { block := finish (effectOf i (accept (opcode i) s.block)), agenda := rest, readData := none } :=
  runsTo_succ.2 ⟨_, step_commandEvent ha hb hc, runsTo_succ.2 ⟨_, step_engineEvent (i := i) rfl rfl rfl hc,
    runsTo_zero.2 rfl⟩⟩

/-! ### Blocks with the same inputs -/

theorem sameInputs_refl (b : Block) : b.sameInputs b := by
  simp [Block.sameInputs]

theorem sameInputs_symm {b c : Block} (h : b.sameInputs c) : c.sameInputs b := by
  simp_all [Block.sameInputs]

theorem sameInputs_trans {b c d : Block} (h : b.sameInputs c) (h' : c.sameInputs d) : b.sameInputs d := by
  simp_all [Block.sameInputs]

/-- The checks depend on the inputs alone. -/
theorem checks_of_sameInputs {i : Instr} {b c : Block} (h : b.sameInputs c) : checks i b = checks i c := by
  obtain ⟨h1, h2, -, -, -, -, h7, -⟩ := h
  simp only [checks, badDigits, badKeylen, badAlg, badPeriod, digitsOf, keylenOf, periodOf, h1, h2, h7]
  rfl

/-- Everything a bus transaction can do to a busy machine: it completes, the command stays pending and no input
changes (60_exceptions.md R257). -/
theorem step_bus_busy {s : State} {e : Event} {rest : List Event} (ha : s.agenda = e :: rest) (he : e.isBus = true)
    (hb : s.block.status.busy = true) :
    ∃ t, step s = .next t ∧ t.agenda = rest ∧ t.block.status.busy = true ∧ t.block.pendOp = s.block.pendOp ∧
      s.block.sameInputs t.block := by
  cases e with
  | engine => cases he
  | reset => cases he
  | read off => exact ⟨_, step_read ha, rfl, hb, rfl, sameInputs_refl _⟩
  | write off w =>
    by_cases hr : regAt off = some .cmd
    · rw [step_cmdWrite ha hr]
      exact ⟨_, if_pos hb, rfl, hb, rfl, sameInputs_refl _⟩
    · rw [step_registerWrite ha hr]
      refine ⟨_, rfl, rfl, ?_⟩
      dsimp only
      rcases registerWrite_cases off w s.block with ⟨-, h⟩ | ⟨-, h⟩ | ⟨r, -, -, -, h⟩ | ⟨r, -, -, h', h⟩ | h
      · rw [h]; exact ⟨hb, rfl, sameInputs_refl _⟩
      · rw [h]; exact ⟨hb, rfl, sameInputs_refl _⟩
      · rw [h]; exact ⟨hb, rfl, sameInputs_refl _⟩
      · rw [hb] at h'; cases h'
      · rw [h]; exact ⟨hb, rfl, sameInputs_refl _⟩

end Sys2Proof.Machine
end

