-- ==== Sys2Proof/Laws/Sha.lean ====
section
/-! SUPPORT. The padding arithmetic of 42_sha_functions.md R171 and R172, and what a message schedule holds. -/

namespace Sys2Proof.Machine

/-! ### Padding -/

/-- The padding fills whole blocks. -/
theorem padZeros_fills {block : Nat} (h : 0 < block) (lenBytes n : Nat) :
    (n + 1 + padZeros block lenBytes n + lenBytes) % block = 0 := by
  unfold padZeros
  have h1 := Nat.mod_lt (n + 1 + lenBytes) h
  have h2 := Nat.div_add_mod (n + 1 + lenBytes) block
  by_cases h0 : (n + 1 + lenBytes) % block = 0
  · rw [h0]
    simp
    rw [h0]
  · rw [Nat.mod_eq_of_lt (show block - (n + 1 + lenBytes) % block < block by omega)]
    have : n + 1 + (block - (n + 1 + lenBytes) % block) + lenBytes =
        block * ((n + 1 + lenBytes) / block + 1) := by
      rw [Nat.mul_add]
      omega
    rw [this]
    simp

/-- No smaller number of zero bytes does. -/
theorem padZeros_least {block lenBytes n j : Nat} (hb : 0 < block) (h : (n + 1 + j + lenBytes) % block = 0) :
    padZeros block lenBytes n ≤ j := by
  unfold padZeros
  have h1 := Nat.mod_lt (n + 1 + lenBytes) hb
  by_cases h0 : (n + 1 + lenBytes) % block = 0
  · simp [h0]
  · rw [Nat.mod_eq_of_lt (show block - (n + 1 + lenBytes) % block < block by omega)]
    by_contra hlt
    have : (n + 1 + j + lenBytes) % block = (n + 1 + lenBytes) % block + j := by
      rw [show n + 1 + j + lenBytes = (n + 1 + lenBytes) + j by omega, Nat.add_mod,
        Nat.mod_eq_of_lt (show j < block by omega), Nat.mod_eq_of_lt (by omega)]
    omega

/-! ### Message schedules -/

variable {w : Nat} (next : List (BitVec w) → BitVec w)

theorem extendSchedule_succ (n : Nat) (ws : List (BitVec w)) :
    extendSchedule next (n + 1) ws = next (extendSchedule next n ws) :: extendSchedule next n ws := by
  induction n generalizing ws with
  | zero => rfl
  | succ n ih => rw [extendSchedule, ih, ← extendSchedule]

theorem extendSchedule_length (ws : List (BitVec w)) (n : Nat) :
    (extendSchedule next n ws).length = ws.length + n := by
  induction n with
  | zero => rfl
  | succ n ih => rw [extendSchedule_succ, List.length_cons, ih, Nat.add_assoc]

/-- A word of a schedule does not change as the schedule grows. -/
theorem extendSchedule_stable (ws : List (BitVec w)) {j t n : Nat} (ht : t < ws.length + j) (h : j ≤ n) :
    (extendSchedule next n ws).reverse.getD t 0 = (extendSchedule next j ws).reverse.getD t 0 := by
  induction n, h using Nat.le_induction with
  | base => rfl
  | succ n hn ih =>
    rw [extendSchedule_succ, List.reverse_cons, ← ih]
    simp only [List.getD_eq_getElem?_getD]
    rw [List.getElem?_append_left (by simp [extendSchedule_length]; omega)]

theorem wordBack_eq (l : List (BitVec w)) {k : Nat} (h1 : 1 ≤ k) (h2 : k ≤ l.length) :
    wordBack l k = l.reverse.getD (l.length - k) 0 := by
  unfold wordBack
  simp only [List.getD_eq_getElem?_getD]
  rw [List.getElem?_reverse (by omega)]
  congr 2
  omega

/-- Everything a schedule of a 16-word block holds: its length, the block's words first, then each word made from the
words before it. -/
theorem schedule_spec (n : Nat) {m : List (BitVec w)} (hm : m.length = 16) :
    (schedule next n m).length = 16 + n ∧ (∀ t, t < 16 → (schedule next n m).getD t 0 = m.getD t 0) ∧
      ∀ t, 16 ≤ t → t < 16 + n → ∃ ws, (schedule next n m).getD t 0 = next ws ∧
        ∀ k, 1 ≤ k → k ≤ 16 → wordBack ws k = (schedule next n m).getD (t - k) 0 := by
  refine ⟨by simp [schedule, extendSchedule_length, hm], fun t ht => ?_, fun t h1 h2 => ?_⟩
  · rw [schedule, extendSchedule_stable next _ (j := 0) (by simp [hm, ht]) (by omega)]
    simp [extendSchedule]
  · refine ⟨extendSchedule next (t - 16) m.reverse, ?_, fun k hk hk' => ?_⟩
    · rw [schedule, extendSchedule_stable next _ (j := t - 16 + 1) (by simp [hm]; omega) (by omega),
        extendSchedule_succ, List.reverse_cons]
      simp only [List.getD_eq_getElem?_getD]
      rw [List.getElem?_append_right (by simp [extendSchedule_length, hm]; omega)]
      simp [extendSchedule_length, hm, show t - (16 + (t - 16)) = 0 by omega]
    · rw [wordBack_eq _ hk (by simp [extendSchedule_length, hm]; omega), schedule,
        extendSchedule_stable next _ (j := t - 16) (t := t - k) (by simp [hm]; omega) (by omega)]
      simp [extendSchedule_length, hm, show 16 + (t - 16) = t by omega]

end Sys2Proof.Machine
end

