-- ==== Sys2Proof/Tests/Slice0.lean ====
section
/-! SUPPORT. The model's own tests: ill-formed terms refused, words decoded, one step of each command against the vectors
of 95_test_vectors.md, the error, bus and interrupt cases, and a witness of the hypotheses of every statement that has
hypotheses. Expected values come from the spec, not from the model. -/

namespace Sys2Proof.Tests

open Sys2Proof.Machine

set_option Elab.async false

/-! ### Helpers -/

/-- A machine with block `b` and the steps `es` at its port. -/
def machine (b : Block) (es : List Event := []) : State := { block := b, agenda := es, readData := none }

/-- The reset block in which command `i` has been accepted. -/
def pending (i : Instr) (b : Block := Block.reset) : Block := accept (opcode i) b

/-- A view of the block after an outcome, none where the machine stops. -/
def shown {α : Type} (f : Block → α) : Outcome → Option α
  | .next t => some (f t.block)
  | .fault _ => none
  | .refused _ => none

/-- A block with a secret in KEY and its length in KEYLEN. -/
def withSecret (secret : List Byte) (b : Block) : Block :=
  { b with keylen := BitVec.ofNat 16 secret.length, key := Vector.ofFn fun i => secret.getD i.val 0 }

/-- A block with CTRL written. -/
def withCtrl (alg : BitVec 2) (digits : BitVec 4) (b : Block) : Block := { b with ctrl := { digits := digits, alg := alg } }

/-- n ASCII digits "1234567890123..." (95_test_vectors.md: K20, K32, K64). -/
def digitsKey (n : Nat) : List Byte := (List.range n).map fun i => BitVec.ofNat 8 (0x30 + (i + 1) % 10)

/-- The first n bytes of DIGEST as one natural. -/
def digestNat (n : Nat) (b : Block) : Nat := beVal (b.digest.toList.take n)

/-! ### Well-formedness: ill-formed terms are refused -/

theorem test_legalOp_refuses_zero : legalOp 0x0 = false := by decide
theorem test_legalOp_refuses_eight_to_fifteen : ∀ op : BitVec 4, 8 ≤ op.toNat → legalOp op = false := by decide
theorem test_legalOp_accepts_one_to_seven : legalOp 0x1 = true ∧ legalOp 0x7 = true := by decide
theorem test_wellFormedWord_refuses : wellFormedWord 0xFFFFFFF0 = false ∧ wellFormedWord 0x00000009 = false := by decide
theorem test_program_with_two_equal_labels_is_refused :
    wellFormedProgram [.label "w", .label "w"] = false := by decide
theorem test_branch_to_no_label_is_refused :
    wellFormedProgram [.rd (.reg .status), .bit1 (.reg .status) 0 "w"] = false := by decide
theorem test_branch_on_bit_32_is_refused :
    wellFormedProgram [.label "w", .rd (.reg .status), .bit1 (.reg .status) 32 "w"] = false := by decide
theorem test_wait_loop_is_well_formed : wellFormedProgram (waitLoop "w") = true := by decide
theorem test_loadKey_of_257_bytes_is_refused :
    (Pseudo.loadKey (List.replicate 257 0)).wellFormed = false ∧ (Pseudo.loadKey (List.replicate 256 0)).wellFormed = true := by
  decide +kernel

/-! ### Decoding (30_encoding.md R101, R103): the word written out for each constructor -/

theorem test_decode_conv : decode 0b00000000000000000000000000000001#32 = .ok .conv := by decide
theorem test_decode_hmac : decode 0b10000000000000000000000000000010#32 = .ok .hmac := by decide
theorem test_decode_trunc : decode 0b00000000000000000000000000000011#32 = .ok .trunc := by decide
theorem test_decode_reduce : decode 0b00000000000000000000000000010100#32 = .ok .reduce := by decide
theorem test_decode_hotp : decode 0b00000000000000000000000000000101#32 = .ok .hotp := by decide
theorem test_decode_totp : decode 0b11111111111111111111111111110110#32 = .ok .totp := by decide
theorem test_decode_zeroize : decode 0b00000000000000000000000000000111#32 = .ok .zeroize := by decide
theorem test_decode_refuses_by_op :
    decode 0b00000000000000000000000000000000#32 = .error (.illegalCommand 0x0) ∧
      decode 0b00000000000000000000000000001000#32 = .error (.illegalCommand 0x8) ∧
      decode 0b11111111111111111111111111111111#32 = .error (.illegalCommand 0xF) := by decide
theorem test_decodeTableWord : decodeTableWord 32 6 = some .totp ∧ decodeTableWord 32 0xF = none ∧
    decodeTableWord 4 0x17 = some .zeroize := by decide
theorem test_withFetchWord_runs_the_word :
    shown (fun b => (b.status.busy, b.pendOp)) (step (State.reset.withFetchWord 32 6)) = some (true, 0x6) := by
  decide +kernel

/-! ### One step of each command (95_test_vectors.md, section 2) -/

/-- V-CONV-9: the largest time, period 30. -/
theorem test_conv_largest_time :
    shown (fun b => (b.counterHi, b.counterLo, b.status.toWord))
      (exec .conv (machine (pending .conv { Block.reset with timeLo := 0xFFFFFFFF, timeHi := 0xFFFFFFFF }))) =
        some (0x08888888, 0x88888888, 0x00000002) := by decide +kernel

/-- V-CONV-11: the quotient's carry into the high word. -/
theorem test_conv_high_word :
    shown (fun b => (b.counterHi, b.counterLo))
      (exec .conv (machine (pending .conv { Block.reset with timeHi := 1, period := 1 }))) = some (1, 0) := by
  decide +kernel

/-- V-HMAC-3: SHA-512, counter 1. -/
theorem test_hmac_sha512 :
    shown (digestNat 64) (exec .hmac (machine (pending .hmac
      (withCtrl 2 6 (withSecret (digitsKey 64) { Block.reset with counterLo := 1 }))))) =
        some 0x6f76f324230cefda1d3f65309a0badb36efce9528ada64967d71e4e9d74c4aa37fe7650f931ab86ddccc2d38962d720ee626a20feb311b485a92e3bb0796df28 := by
  decide +kernel

/-- V-HMAC-7: SHA-256 with a key longer than the block, hashed first. -/
theorem test_hmac_sha256_long_key :
    shown (digestNat 32) (exec .hmac (machine (pending .hmac
      (withCtrl 1 6 (withSecret (List.replicate 131 0xAA) Block.reset))))) =
        some 0x4ff2c36479bf9b7a7e319e7637021888818dc2cc3b38daa49e22bb4b2f7f709c := by decide +kernel

/-- V-TRUNC-5: the offset byte of SHA-256 is DIGEST[31]. -/
theorem test_trunc_sha256 :
    shown (fun b => (b.offset, b.binary)) (exec .trunc (machine (pending .trunc (withCtrl 1 6 { Block.reset with
      digest := Vector.ofFn fun i => if i.val = 19 then 0x00 else if i.val = 31 then 0xF5 else BitVec.ofNat 8 i.val })))) =
        some (5, 0x05060708) := by decide +kernel

/-- V-TRUNC-8: the largest offset, the top bit masked. -/
theorem test_trunc_largest_offset :
    shown (fun b => (b.offset, b.binary)) (exec .trunc (machine (pending .trunc { Block.reset with
      digest := Vector.replicate 64 0xFF }))) = some (15, 0x7FFFFFFF) := by decide +kernel

/-- V-RED-11: BINARY with bit 31 set, nine digits. -/
theorem test_reduce_nine_digits :
    shown (fun b => (b.code, b.bcdHi, b.bcdLo, (winWord b.ascii 0, winWord b.ascii 1, winWord b.ascii 2, winWord b.ascii 3)))
      (exec .reduce (machine (pending .reduce (withCtrl 0 9 { Block.reset with binary := 0xFFFFFFFF })))) =
        some (294967295, 0x02, 0x94967295, (0x32393439, 0x36373239, 0x35000000, 0)) := by decide +kernel

/-- V-SRC-2, V-RED-6: the zero-padding check. -/
theorem test_reduce_zero_padding :
    shown (fun b => (b.code, winWord b.ascii 0, winWord b.ascii 1))
      (exec .reduce (machine (pending .reduce { Block.reset with binary := 1000000 }))) =
        some (0, 0x30303030, 0x30300000) := by decide +kernel

/-- V-HOTP-0. -/
theorem test_hotp_counter_zero :
    shown (fun b => (b.offset, b.binary, b.code, b.bcdLo))
      (exec .hotp (machine (pending .hotp (withSecret (digitsKey 20) Block.reset)))) =
        some (0, 0x4C93CF18, 755224, 0x00755224) := by decide +kernel

/-- V-SRC-1: the source's own vector. -/
theorem test_totp_source_vector :
    shown (fun b => (b.counterLo, b.code, winWord b.ascii 0, winWord b.ascii 1))
      (exec .totp (machine (pending .totp (withCtrl 0 8 (withSecret (digitsKey 20) { Block.reset with timeLo := 59 }))))) =
        some (1, 94287082, 0x39343238, 0x37303832) := by decide +kernel

/-- 45_composite_and_key.md R232: the whole secret is cleared, STATUS shows DONE alone. -/
theorem test_zeroize :
    shown (fun b => (b.key.toList.all (· == 0), b.keylen, b.status.toWord))
      (exec .zeroize (machine (pending .zeroize { Block.reset with key := Vector.replicate 256 0xA5, keylen := 0xFFFF }))) =
        some (true, 0, 0x00000002) := by decide +kernel

/-! ### The hash functions: the known answers of 42_sha_functions.md R176, R180, R184 -/

/-- The ASCII bytes of "abc". -/
def abc : List Byte := [0x61, 0x62, 0x63]

theorem test_sha1_abc : beVal (sha1 abc) = 0xa9993e364706816aba3e25717850c26c9cd0d89d := by decide +kernel
theorem test_sha256_abc :
    beVal (sha256 abc) = 0xba7816bf8f01cfea414140de5dae2223b00361a396177a9cb410ff61f20015ad := by decide +kernel
theorem test_sha512_abc :
    beVal (sha512 abc) =
      0xddaf35a193617abacc417349ae20413112e6fa4e89a97ea20a9eeee64b55d39a2192992a274fc1a836ba3c23a3feebbd454d4423643ce80e2a9ac94fa54ca49f := by
  decide +kernel

/-! ### Errors, overrun, bus and interrupt (60_exceptions.md, 20_memory.md) -/

/-- R254, R256: every failed check of TOTP in one mask, ERRINFO read as a word. -/
theorem test_rejection_reports_all_causes :
    shown (fun b => (busReadWord 0x02C b, busReadWord 0x028 b))
      (step (machine (withCtrl 3 5 { Block.reset with period := 0x80000000, keylen := 257 }) [.write 0x024 6])) =
        some (0x00060F01, 0x00000006) := by decide +kernel

/-- R255, R258: an illegal OP reports ILLEGAL_COMMAND and no cause. -/
theorem test_rejection_of_illegal_op :
    shown (fun b => (busReadWord 0x02C b, busReadWord 0x028 b))
      (step (machine { Block.reset with period := 0 } [.write 0x024 0xFFFFFFF8])) = some (0x00080003, 0x00000006) := by
  decide +kernel

/-- R257: a CMD write while BUSY, of an illegal OP, sets OVERRUN alone. -/
theorem test_overrun_by_cmd :
    shown (fun b => (busReadWord 0x02C b, busReadWord 0x028 b)) (step (machine (pending .conv) [.write 0x024 0])) =
      some (0x00010000, 0x00000009) := by decide +kernel

/-- 20_memory.md R81: an input write while BUSY is dropped; IRQ_EN is written even then. -/
theorem test_writes_while_busy :
    shown (fun b => (b.period, b.status.overrun)) (step (machine (pending .conv) [.write 0x00C 7])) =
      some (30, true) ∧
    shown (fun b => (busReadWord 0x030 b, b.status.overrun)) (step (machine (pending .conv) [.write 0x030 0xFFFFFFFF])) =
      some (7, false) := by decide +kernel

/-- 20_memory.md R81: a write of 1 clears, of 0 keeps, and BUSY ignores the write. -/
theorem test_status_write_one_clears :
    shown (busReadWord 0x028) (step (machine { Block.reset with
      status := { busy := true, done := true, err := true, overrun := true } } [.write 0x028 0xFFFFFFFD])) =
        some 0x00000003 := by decide +kernel

/-- 20_memory.md R71, R80, 10_state.md R22: bits 1:0 are not decoded; ID reads "TOTP". -/
theorem test_read_id_unaligned :
    step (machine Block.reset [.read 0x003]) =
      .next { block := Block.reset, agenda := [], readData := some 0x544F5450 } := by rfl

/-- 10_state.md R44: KEY reads 0. -/
theorem test_key_reads_zero :
    busReadWord 0x2FC { Block.reset with key := Vector.replicate 256 0xA5 } = 0 := by decide +kernel

/-- 20_memory.md R73: byte 4k is the most significant. -/
theorem test_key_word_is_big_endian :
    shown (fun b => b.key.toList.take 5) (step (machine Block.reset [.write 0x200 0x31323334])) =
      some [0x31, 0x32, 0x33, 0x34, 0x00] := by decide +kernel

/-- 60_exceptions.md R262: DONE without its enable is silent, ERR with its enable is not. -/
theorem test_irq_level :
    irq { Block.reset with status := { Block.reset.status with done := true } } = false ∧
      irq { Block.reset with
        status := { Block.reset.status with err := true }
        irqEn := { doneIe := false, errIe := true, ovrIe := false } } = true := by decide +kernel

/-- 70_reset_and_hazards.md R280: a reset abandons the pending command; the engine's turn then does nothing. -/
theorem test_reset_abandons :
    shown (fun b => (busReadWord 0x008 b, b.pendOp, b.status.toWord)) (step (machine (pending .zeroize) [.reset])) =
      some (0x00000060, 0, 0) := by decide +kernel

/-- 10_state.md R46: with nothing at the port the pending command completes. -/
theorem test_engine_turn_when_port_is_quiet :
    shown (fun b => (b.counterLo, b.status.toWord, b.pendOp))
      (step (machine (pending .conv { Block.reset with timeLo := 59 }))) = some (1, 2, 0) := by decide +kernel

/-- Log entry 6: a busy block whose command fails a check is stuck by name. -/
theorem test_unchecked_operands_are_stuck :
    exec .conv (machine (pending .conv { Block.reset with period := 0 })) = .fault .engineUncheckedOperands := by
  rw [exec_busy_unchecked rfl (by decide +kernel)]

/-! ### The host agent (30_encoding.md R111, R112) -/

/-- LOADKEY of five bytes: KEYLEN, KEY0 and a padded KEY1. -/
theorem test_loadKey_expansion :
    (Pseudo.loadKey [1, 2, 3, 4, 5]).expand.filterMap Stmt.transaction =
      [.write 0x020 5, .write 0x200 0x01020304, .write 0x204 0x05000000] := by decide +kernel

/-- CONFIG of SHA-256 and eight digits writes CTRL = 0x81. -/
theorem test_config_expansion :
    (Pseudo.config 1 8).expand.filterMap Stmt.transaction = [.write 0x008 0x00000081] := by decide +kernel

/-- RUN CONV on an interleaving with one poll before the completion: the host leaves the loop and the run has ended. -/
theorem test_run_loop_ends :
    ((System.start (assemble [.run .conv "w"])).run
      [.host, .host, .host, .host, .engine, .host, .host, .host]).map System.ended = some true := by decide +kernel

/-! ### Witnesses: for every statement with hypotheses, values that meet them, each clause at its boundary -/

/-- A block ready for TOTP and every other command: a one-byte key, ten digits, SHA-512. -/
def ready : Block := withCtrl 2 10 (withSecret [0x31] Block.reset)

theorem witness_ResetStepAbandonsEverything :
    (machine (pending .totp) [.reset, .read 0]).agenda = .reset :: [.read 0] := rfl

theorem reset_legal : (machine Block.reset [commandEvent .conv]).Legal := by
  refine ⟨?_, ?_, ?_⟩
  · unfold Block.pendingLegal; rfl
  · unfold Block.errInfoLegal; decide
  · exact ⟨by decide, by decide, .inl ⟨rfl, rfl⟩⟩

/-- A legal state with a command pending. -/
theorem busy_legal : (machine (pending .zeroize) []).Legal := by
  refine ⟨?_, ?_, ?_⟩
  · unfold Block.pendingLegal
    exact ⟨.zeroize, rfl, by decide +kernel, rfl, rfl⟩
  · unfold Block.errInfoLegal; decide
  · exact ⟨by decide, by decide, .inl ⟨rfl, rfl⟩⟩

/-- EveryStepKeepsLegality: an acceptance and a completion. -/
theorem witness_EveryStepKeepsLegality :
    (∃ s t : State, s.Legal ∧ step s = .next t ∧ s.block.status.busy = false ∧ t.block.status.busy = true) ∧
      ∃ s t : State, s.Legal ∧ step s = .next t ∧ s.block.status.busy = true ∧ t.block.status.busy = false :=
  ⟨⟨_, _, reset_legal, step_commandEvent rfl rfl (by decide +kernel), rfl, rfl⟩, ⟨_, _, busy_legal, rfl, rfl, rfl⟩⟩

/-- LegalMachineNeverStops, PendingCommandIsEventuallyCompleted: an idle and a busy legal state. -/
theorem witness_LegalMachineNeverStops :
    (∃ s : State, s.Legal ∧ s.block.status.busy = false) ∧ ∃ s : State, s.Legal ∧ s.block.status.busy = true :=
  ⟨⟨_, reset_legal, rfl⟩, ⟨_, busy_legal, rfl⟩⟩

/-- DecodeAndEncodeAgree: a word of a command and words of the two reserved ranges' ends. -/
theorem witness_DecodeAndEncodeAgree :
    decode 0xFFFFFFF7 = .ok .zeroize ∧ decode 0xFFFFFFF0 = .error (.illegalCommand 0x0) ∧
      decode 0x00000008 = .error (.illegalCommand 0x8) ∧ decode 0x0000000F = .error (.illegalCommand 0xF) := by decide

/-- IgnoredCommandBitsChangeNothing and the other CMD statements: the offsets of CMD. -/
theorem witness_cmd_offset : (0x024 : BitVec 12) &&& 0xFFC = 0x024 ∧ (0x027 : BitVec 12) &&& 0xFFC = 0x024 := by decide

/-- CommandWriteRunsDecodedCommand, AcceptanceSetsBusyAndPending: TOTP written with ignored bits set. -/
theorem witness_CommandWriteRunsDecodedCommand :
    (machine ready [.write 0x027 0xABCDEF06]).agenda = [.write 0x027 0xABCDEF06] ∧ ready.status.busy = false ∧
      decode 0xABCDEF06 = .ok .totp ∧ checks .totp ready = 0 := by decide +kernel

/-- EngineTurnRunsPendingCommand: the engine's turn in the agenda, and an empty agenda. -/
theorem witness_EngineTurnRunsPendingCommand :
    (machine (pending .hotp) [.engine, .engine]).agenda = .engine :: [.engine] ∧ (machine (pending .hotp)).agenda = [] ∧
      (pending .hotp).status.busy = true ∧ (pending .hotp).pendOp = opcode .hotp := by decide

/-- CheckMaskReportsEveryFailedCheck: each operand at the edge of its legal range, on both sides. -/
theorem witness_CheckMaskReportsEveryFailedCheck :
    checks .totp { ready with period := 1 } = 0x0 ∧ checks .totp { ready with period := 0x7FFFFFFF } = 0x0 ∧
      checks .totp { ready with period := 0 } = 0x1 ∧ checks .totp { ready with period := 0x80000000 } = 0x1 ∧
      checks .hmac (withCtrl 3 10 ready) = 0x2 ∧ checks .hmac { ready with keylen := 256 } = 0x0 ∧
      checks .hmac { ready with keylen := 257 } = 0x4 ∧ checks .reduce (withCtrl 0 5 ready) = 0x8 ∧
      checks .reduce (withCtrl 0 6 ready) = 0x0 ∧ checks .reduce (withCtrl 3 11 ready) = 0x8 := by decide +kernel

/-- RejectionChangesThreeFieldsOnly: an illegal OP, and a command with a failed check. -/
theorem witness_RejectionChangesThreeFieldsOnly :
    Block.reset.status.busy = false ∧ decode 0x00000000 = .error (.illegalCommand 0x0) ∧
      decode 0x00000001 = .ok .conv ∧ checks .conv { Block.reset with period := 0 } ≠ 0 := by decide +kernel

/-- WriteWhileBusyOnlyOverruns: CMD, the first input register and the last. -/
theorem witness_WriteWhileBusyOnlyOverruns :
    (pending .hmac).status.busy = true ∧ regAt 0x024 = some .cmd ∧
      (regAt 0x008 = some .ctrl ∧ isInput .ctrl = true) ∧
      (regAt 0x2FF = some (.key 63) ∧ isInput (.key 63) = true) := by decide +kernel

/-- BusReadAnswersRegisterView, BusWriteFollowsRegisterMap, ReservedOffsetsAndBitsReadZero: the windows' ends and the
reserved ranges' ends, bits 1:0 set in some. -/
theorem witness_window_offsets :
    (0x050 : BitVec 12) &&& 0xFFC = BitVec.ofNat 12 (0x050 + 4 * 0) ∧
      (0x05F : BitVec 12) &&& 0xFFC = BitVec.ofNat 12 (0x050 + 4 * 3) ∧
      (0x100 : BitVec 12) &&& 0xFFC = BitVec.ofNat 12 (0x100 + 4 * 0) ∧
      (0x13F : BitVec 12) &&& 0xFFC = BitVec.ofNat 12 (0x100 + 4 * 15) ∧
      (0x200 : BitVec 12) &&& 0xFFC = BitVec.ofNat 12 (0x200 + 4 * 0) ∧
      (0x2FF : BitVec 12) &&& 0xFFC = BitVec.ofNat 12 (0x200 + 4 * 63) := by decide

theorem witness_reserved_offsets :
    ((0x04B : BitVec 12) &&& 0xFFC).toNat = 0x048 ∧ ((0x04F : BitVec 12) &&& 0xFFC).toNat = 0x04C ∧
      ((0x060 : BitVec 12) &&& 0xFFC).toNat = 0x060 ∧ ((0x0FF : BitVec 12) &&& 0xFFC).toNat = 0x0FC ∧
      ((0x140 : BitVec 12) &&& 0xFFC).toNat = 0x140 ∧ ((0x1FF : BitVec 12) &&& 0xFFC).toNat = 0x1FC ∧
      ((0x300 : BitVec 12) &&& 0xFFC).toNat = 0x300 ∧ ((0xFFF : BitVec 12) &&& 0xFFC).toNat = 0xFFC := by decide

/-- BusReadAnswersRegisterView and BusWriteFollowsRegisterMap: each word register's offset, reached with bits 1:0 set. -/
theorem witness_word_offsets :
    (∀ o ∈ ([0x000, 0x004, 0x008, 0x00C, 0x010, 0x014, 0x018, 0x01C, 0x020, 0x024, 0x028, 0x02C, 0x030, 0x034, 0x038,
      0x03C, 0x040, 0x044] : List (BitVec 12)), (o ||| 0x003) &&& 0xFFC = o) ∧
      (machine Block.reset [.write 0x02B 8]).agenda = [.write 0x02B 8] := ⟨by decide +kernel, rfl⟩

theorem witness_OffsetLowBitsAreNotDecoded : (0x024 : BitVec 12) &&& 0xFFC = (0x027 : BitVec 12) &&& 0xFFC := by decide

theorem witness_IdentityRegistersAreHardwired :
    (0x003 : BitVec 12) &&& 0xFFC = 0x000 ∧ (0x007 : BitVec 12) &&& 0xFFC = 0x004 := by decide

/-- ByteWindowsAreBigEndian: the last word of each window. -/
theorem witness_ByteWindowsAreBigEndian : 4 * 3 + 3 < 16 ∧ 4 * 15 + 3 < 64 ∧ 4 * 63 + 3 < 256 := by decide

/-- SixtyFourBitValuesAreTwoWords: a write of TIME_LO. -/
theorem witness_SixtyFourBitValuesAreTwoWords :
    ∃ t, (Event.write 0x010 7).isBus = true ∧ step (machine Block.reset [.write 0x010 7]) = .next t ∧
      t.block.timeLo = 7 := ⟨_, rfl, rfl, by decide +kernel⟩

theorem witness_RegisterMapAndDecoderAgree : regAt 0x2FF = some (.key 63) ∧ regAt 0x002 = some .id := by decide +kernel

/-- HostAddressesOfTheWindow: the window's last address, and the address below its first. -/
theorem witness_HostAddressesOfTheWindow :
    (∃ off, windowOffset (Config.baseAddr + 4095) = some off) ∧ windowOffset (Config.baseAddr + 4096) = none := by
  constructor
  · exact ⟨_, if_pos ⟨Nat.le_add_right _ _, by omega⟩⟩
  · exact if_neg (by omega)

/-- ErrorInterruptsStayUntilAcknowledged: an acceptance; a STATUS write that clears DONE alone under each interrupt. -/
theorem witness_ErrorInterruptsStayUntilAcknowledged :
    (∃ t, step (machine ready [commandEvent .totp]) = .next t ∧ ready.status.busy = false ∧ t.block.status.busy = true) ∧
      ∃ b : Block, b.status.err = true ∧ b.irqEn.errIe = true ∧ b.status.overrun = true ∧ b.irqEn.ovrIe = true ∧
        (∃ t, step (machine b [.write 0x028 0x2]) = .next t) ∧
        (0x2 : Word).getLsbD 2 = false ∧ (0x2 : Word).getLsbD 3 = false :=
  ⟨⟨_, step_commandEvent rfl rfl (by decide +kernel), rfl, rfl⟩,
    ⟨{ Block.reset with
        status := { busy := false, done := true, err := true, overrun := true }
        irqEn := { doneIe := false, errIe := true, ovrIe := true } }, rfl, rfl, rfl, rfl, ⟨_, rfl⟩, by decide, by decide⟩⟩

/-- BusyChangesOnlyByAcceptanceCompletionReset: BUSY rises, falls by completion, falls by reset. -/
theorem witness_BusyChangesOnlyByAcceptanceCompletionReset :
    shown (fun b => b.status.busy) (step (machine Block.reset [.write 0x024 1])) = some true ∧
      shown (fun b => b.status.busy) (step (machine (pending .conv))) = some false ∧
      shown (fun b => b.status.busy) (step (machine (pending .conv) [.reset])) = some false := by decide +kernel

/-- ReadOnlyResultsChangeOnlyAtCompletion: a write to CODE, and the engine's turn while idle. -/
theorem witness_ReadOnlyResultsChangeOnlyAtCompletion :
    (∃ t, step (machine ready [.write 0x03C 7]) = .next t ∧ (Event.write 0x03C 7).isBus = true) ∧
      ∃ t, step (machine ready [.engine]) = .next t ∧ ready.status.busy = false :=
  ⟨⟨_, rfl, rfl⟩, ⟨_, rfl, rfl⟩⟩

/-- ConvWritesFloorQuotient: the least and the greatest legal period. -/
theorem witness_ConvWritesFloorQuotient :
    (pending .conv).status.busy = true ∧ 1 ≤ (1 : Word).toInt ∧ 1 ≤ (0x7FFFFFFF : Word).toInt := by decide

/-- HmacWritesDigest, TruncExtractsMaskedWindow, HotpRunsItsThreeStages, TotpRunsItsFourStages: each algorithm, the
greatest key length, both ends of DIGITS. -/
theorem witness_command_operands :
    hashAlgOf 0 = some .sha1 ∧ hashAlgOf 1 = some .sha256 ∧ hashAlgOf 2 = some .sha512 ∧
      (256 : BitVec 16).toNat ≤ 256 ∧ 6 ≤ (6 : BitVec 4).toNat ∧ (10 : BitVec 4).toNat ≤ 10 ∧
      (pending .totp ready).status.busy = true ∧ hashAlgOf (pending .totp ready).ctrl.alg = some .sha512 ∧
      (pending .totp ready).keylen.toNat ≤ 256 ∧ 6 ≤ (pending .totp ready).ctrl.digits.toNat ∧
      (pending .totp ready).ctrl.digits.toNat ≤ 10 ∧ 1 ≤ (pending .totp ready).period.toInt := by decide +kernel

/-- ReduceWritesCode: BINARY with bit 31 set, ten digits. -/
theorem witness_ReduceWritesCode :
    (pending .reduce { ready with binary := 0xFFFFFFFF }).status.busy = true ∧
      6 ≤ (pending .reduce ready).ctrl.digits.toNat ∧ (pending .reduce ready).ctrl.digits.toNat ≤ 10 := by decide +kernel

/-- ZeroizeClearsKeyAndLength: idle and busy. -/
theorem witness_ZeroizeClearsKeyAndLength :
    Block.reset.status.busy = false ∧ (pending .zeroize).status.busy = true := by decide

/-- CommandsChangeOnlyTheirRegisters: every command in both of its steps. -/
theorem witness_CommandsChangeOnlyTheirRegisters (i : Instr) :
    (∃ t, exec i (machine ready) = .next t ∧ ready.status.busy = false) ∧
      ∃ t, exec i (machine (pending i ready)) = .next t ∧ (pending i ready).status.busy = true :=
  ⟨⟨_, exec_idle rfl, rfl⟩, ⟨_, exec_busy rfl (by revert i; intro i; cases i <;> decide +kernel), rfl⟩⟩

/-- EqualTimeWindowsGiveEqualCodes: the times 30 and 59 of V-SRC-3. -/
theorem witness_EqualTimeWindowsGiveEqualCodes :
    (∃ t, exec .totp (machine (pending .totp { ready with timeLo := 30 })) = .next t) ∧
      timeOf { ready with timeLo := 30 } / (periodOf { ready with timeLo := 30 }).toNat =
        timeOf { ready with timeLo := 59, timeHi := 0 } / (periodOf { ready with timeLo := 30 }).toNat :=
  ⟨⟨_, exec_busy rfl (by decide +kernel)⟩, by decide +kernel⟩

/-- KeyBytesAboveLengthDoNotMatter: two keys that differ at KEY[1], KEYLEN 1. -/
theorem witness_KeyBytesAboveLengthDoNotMatter :
    (∃ t, exec .hotp (machine (pending .hotp ready)) = .next t) ∧
      (Vector.ofFn fun i : Fin 256 => if i.val = 0 then (0x31 : Byte) else 0x7F).toList.take
        (pending .hotp ready).keylen.toNat = (pending .hotp ready).key.toList.take (pending .hotp ready).keylen.toNat :=
  ⟨⟨_, exec_busy rfl (by decide +kernel)⟩, by decide +kernel⟩

/-- ZeroBytesKeyActsAsEmptyKey: as many zero bytes as the block has. -/
theorem witness_ZeroBytesKeyActsAsEmptyKey : 64 ≤ blockLen .sha1 ∧ 64 ≤ blockLen .sha256 ∧ 128 ≤ blockLen .sha512 := by
  decide

/-- SchedulesSatisfyTheirRecurrences: a block of 16 words; the first and the last word of each range. -/
theorem witness_SchedulesSatisfyTheirRecurrences :
    (List.replicate 16 (0 : BitVec 32)).length = 16 ∧ (List.replicate 16 (0 : BitVec 64)).length = 16 ∧
      (15 < 16 ∧ 16 ≤ 16 ∧ 63 < 64 ∧ 79 < 80) := by decide

/-- TruncDependsOnAlgAndDigestAlone: two busy blocks that differ in KEY and above L; a busy block on which HMAC and HOTP
complete. -/
theorem witness_TruncDependsOnAlgAndDigestAlone :
    (∃ t t', exec .trunc (machine (pending .trunc)) = .next t ∧
      exec .trunc (machine (pending .trunc { Block.reset with
        key := Vector.replicate 256 0xA5, digest := Vector.ofFn fun i => if i.val < 20 then 0 else 0xFF })) = .next t') ∧
      (∀ i, i < 20 → byteAt (Vector.ofFn fun i : Fin 64 => if i.val < 20 then (0 : Byte) else 0xFF) i =
        byteAt Block.reset.digest i) ∧
      (∃ h, exec .hmac (machine (pending .hmac ready)) = .next h ∧
        ∃ t, exec .trunc { h with block := { h.block with status := (pending .hmac ready).status } } = .next t) ∧
      ∃ p, exec .hotp (machine (pending .hmac ready)) = .next p := by
  refine ⟨⟨_, _, exec_busy rfl (by decide +kernel), exec_busy rfl (by decide +kernel)⟩, by decide +kernel,
    ⟨_, exec_busy rfl (by decide +kernel), _, exec_busy rfl ?_⟩, ⟨_, exec_busy rfl (by decide +kernel)⟩⟩
  rw [checks_eq_zero_iff]
  simp [effectOf, readsPeriod, readsAlg, readsKey, readsDigits, pending, ready, withCtrl, machine]

/-- BcdNibblesAreTheCodeInDecimal, AsciiStringIsTheZeroPaddedNumeral: the greatest code of six and of ten digits. -/
theorem witness_code_range : 999999 < 10 ^ 6 ∧ 9999999999 < 10 ^ 10 := by decide

theorem witness_TenDigitCodeIsTheWholeBinary : 2147483647 < 2 ^ 31 ∧ 999999999 ≤ 999999999 := by decide

/-- LoadKeyMakesTheSecretTheKey, SoftwareEntryPointGeneratesTheCode: an idle block, the longest secret, the greatest
operands. -/
theorem witness_host_sequences :
    ready.status.busy = false ∧ (List.replicate 256 (0xA5 : Byte)).length ≤ 256 ∧ hashAlgOf 2 = some .sha512 ∧
      6 ≤ (10 : BitVec 4).toNat ∧ (10 : BitVec 4).toNat ≤ 10 ∧ 1 ≤ (0x7FFFFFFF : Word).toInt := by decide +kernel

/-- CompositesEqualTheirStages: an idle block that passes the checks of HOTP and TOTP. -/
theorem witness_CompositesEqualTheirStages :
    (machine ready).block.status.busy = false ∧
      checks .hotp ready = 0 ∧ checks .totp ready = 0 := by decide +kernel

/-- ResultsDependOnInputsAtAcceptanceAlone: two idle blocks that differ in IRQ_EN, and bus transactions of each kind. -/
theorem witness_ResultsDependOnInputsAtAcceptanceAlone :
    checks .totp ready = 0 ∧ Block.sameInputs ready { ready with irqEn := { doneIe := true, errIe := true, ovrIe := true } } ∧
      (∀ e ∈ [Event.read 0x028, .write 0x00C 7, .write 0x024 1], e.isBus = true) :=
  ⟨by decide +kernel, by unfold Block.sameInputs; simp, by decide⟩

/-- BusTransactionsNeverRevealTheKey: a read of KEY and the issue of HMAC. -/
theorem witness_BusTransactionsNeverRevealTheKey :
    (∀ e ∈ (machine ready [.read 0x200, commandEvent .hmac]).agenda, e.isBus = true) ∧
      ∃ t, RunsTo 2 (machine ready [.read 0x200, commandEvent .hmac]) t :=
  ⟨by decide, ⟨_, runsTo_succ.2 ⟨_, step_read rfl, runsTo_succ.2 ⟨_, step_commandEvent (i := .hmac) rfl rfl (by decide +kernel), runsTo_zero.2 rfl⟩⟩⟩⟩

/-- OnlyHmacCommandsUseTheKey: a read while HMAC is pending, and the completion of REDUCE. -/
theorem witness_OnlyHmacCommandsUseTheKey :
    (∃ t, step (machine (pending .hmac ready) [.read 0x100]) = .next t ∧ usesKey (pending .hmac ready).pendOp = true ∧
      (.read 0x100 : Event) ≠ .engine) ∧
      ∃ t, step (machine (pending .reduce ready)) = .next t ∧ usesKey (pending .reduce ready).pendOp = false :=
  ⟨⟨_, step_read rfl, by decide, by decide⟩, ⟨_, (step_nil rfl).trans rfl, by decide⟩⟩

end Sys2Proof.Tests
end

/-! ### Digest lengths (00_scope.md R8) -/

namespace Sys2Proof.Machine

/-- Hash words written out as `n` bytes each (42_sha_functions.md R185). -/
theorem flatMap_beBytes_length {w : Nat} (n : Nat) (ws : List (BitVec w)) :
    (ws.flatMap fun x => beBytes n x.toNat).length = ws.length * n := by
  simp only [List.length_flatMap, beBytes_length, List.map_const', List.sum_replicate, smul_eq_mul]

@[simp] theorem Sha1Vars.bytes_length (h : Sha1Vars) : h.bytes.length = 20 :=
  flatMap_beBytes_length 4 [h.a, h.b, h.c, h.d, h.e]

@[simp] theorem Sha2Vars.bytes_length {w : Nat} (x : Sha2Vars w) : x.bytes.length = 8 * (w / 8) :=
  flatMap_beBytes_length (w / 8) [x.a, x.b, x.c, x.d, x.e, x.f, x.g, x.h]

/-- The length depends on the final hash words alone, so the blocks before them do not matter. -/
@[simp] theorem hashBytes_length (alg : HashAlg) (m : List Byte) : (hashBytes alg m).length = digestLen alg := by
  cases alg with
  | sha1 => exact Sha1Vars.bytes_length _
  | sha256 => exact Sha2Vars.bytes_length _
  | sha512 => exact Sha2Vars.bytes_length _

/-- Settles O38: `digestLen` is the table of lengths that the statement writes out. -/
theorem digestHasAlgorithmLength : Obligations.DigestHasAlgorithmLength := by
  intro alg m
  rw [hashBytes_length]
  cases alg <;> rfl

end Sys2Proof.Machine

/-! ### Legal states: one law per clause of the invariant (10_state.md R36, R41, R42, R45, R46) -/

namespace Sys2Proof.Machine

variable {b c : Block} {s t : State}

/-- The pending clause of an idle block. -/
theorem pendingLegal_idle (hb : b.status.busy = false) : b.pendingLegal ↔ b.pendOp = 0 := by
  simp [Block.pendingLegal, hb]

/-- The pending clause of a busy block. -/
theorem pendingLegal_busy (hb : b.status.busy = true) :
    b.pendingLegal ↔ ∃ i : Instr, b.pendOp = opcode i ∧ checks i b = 0 ∧ b.status.done = false ∧
      b.errInfo = { op := opcode i, cause := 0, code := codeNone } := by
  simp [Block.pendingLegal, hb]

/-- The pending clause survives a change that keeps the inputs, BUSY, PEND_OP and ERRINFO and does not raise DONE. -/
theorem pendingLegal_of_kept (hin : b.sameInputs c) (hbusy : c.status.busy = b.status.busy)
    (hdone : b.status.done = false → c.status.done = false) (herr : c.errInfo = b.errInfo)
    (hop : c.pendOp = b.pendOp) (h : b.pendingLegal) : c.pendingLegal := by
  cases hb : b.status.busy with
  | false =>
    rw [pendingLegal_idle hb] at h
    rw [pendingLegal_idle (hbusy.trans hb), hop, h]
  | true =>
    obtain ⟨i, hi, hc, hd, he⟩ := (pendingLegal_busy hb).1 h
    exact (pendingLegal_busy (hbusy.trans hb)).2
      ⟨i, hop.trans hi, (checks_of_sameInputs hin).symm.trans hc, hdone hd, herr.trans he⟩

/-- Every step keeps the pending clause. -/
theorem BlockStep.pendingLegal (hstep : BlockStep b c) (h : b.pendingLegal) : c.pendingLegal := by
  cases hstep with
  | same hc => rwa [hc]
  | overrun _ hc => rw [hc]; exact pendingLegal_of_kept (sameInputs_refl b) rfl id rfl rfl h
  | status w hc =>
    rw [hc]
    exact pendingLegal_of_kept (sameInputs_refl b) rfl (fun hd => by simp [hd]) rfl rfl h
  | irqEn w hc => rw [hc]; exact pendingLegal_of_kept (sameInputs_refl b) rfl id rfl rfl h
  | accepted i _ hchecks hc => rw [hc]; exact (pendingLegal_busy rfl).2 ⟨i, rfl, hchecks, rfl, rfl⟩
  | illegal op hb hc =>
    rw [hc]
    exact (pendingLegal_idle (by exact hb)).2 ((pendingLegal_idle hb).1 h)
  | rejected i hb _ hc =>
    rw [hc]
    exact (pendingLegal_idle (by exact hb)).2 ((pendingLegal_idle hb).1 h)
  | input r w _ hb hc =>
    rw [hc, pendingLegal_idle (by simpa using hb), storeInput_pendOp]
    exact (pendingLegal_idle hb).1 h
  | completed i _ _ _ hc => rw [hc]; exact (pendingLegal_idle rfl).2 rfl
  | reset hc => rw [hc]; exact (pendingLegal_idle rfl).2 rfl

theorem errInfoLegal_congr (he : c.errInfo = b.errInfo) : c.errInfoLegal ↔ b.errInfoLegal := by
  simp only [Block.errInfoLegal, he]

/-- ERRINFO of an accepted command, and of reset: no error, no cause. -/
theorem errInfoLegal_of_none {op : BitVec 4} (he : c.errInfo = { op := op, cause := 0, code := codeNone }) :
    c.errInfoLegal := by
  simp [Block.errInfoLegal, he, codeNone, codeInvalidParameter]

/-- Every step keeps ERRINFO among the values the spec produces. -/
theorem BlockStep.errInfoLegal (hstep : BlockStep b c) (h : b.errInfoLegal) : c.errInfoLegal := by
  cases hstep with
  | same hc => rwa [hc]
  | overrun _ hc => rwa [hc, errInfoLegal_congr (setOverrun_errInfo b)]
  | status w hc => rwa [hc, errInfoLegal_congr (writeStatus_errInfo b w)]
  | irqEn w hc => rwa [hc, errInfoLegal_congr (writeIrqEn_errInfo b w)]
  | input r w _ _ hc => rwa [hc, errInfoLegal_congr (storeInput_errInfo w b r)]
  | completed i _ _ _ hc =>
    rwa [hc, errInfoLegal_congr ((finish_errInfo _).trans (effectOf_errInfo i b))]
  | accepted i _ _ hc => rw [hc]; exact errInfoLegal_of_none rfl
  | reset hc => rw [hc]; exact errInfoLegal_of_none rfl
  | illegal op _ hc =>
    rw [hc]
    simp [Block.errInfoLegal, rejectIllegal, codeIllegalCommand, codeInvalidParameter]
  | rejected i _ hchecks hc =>
    rw [hc]
    simpa [Block.errInfoLegal] using hchecks

theorem codeConsistent_congr (hcode : c.code = b.code) (hlo : c.bcdLo = b.bcdLo) (hhi : c.bcdHi = b.bcdHi)
    (hascii : c.ascii = b.ascii) : c.codeConsistent ↔ b.codeConsistent := by
  simp only [Block.codeConsistent, hcode, hlo, hhi, hascii]

/-- REDUCE with a legal DIGITS makes the three formats agree, whatever they held (44_decimal_reduction.md R215). -/
theorem reduceEffect_codeConsistent (h6 : 6 ≤ digitsOf b) (h10 : digitsOf b ≤ 10) :
    (reduceEffect b).codeConsistent := by
  unfold Block.codeConsistent
  rw [reduceEffect_code_toNat]
  exact ⟨rfl, rfl, .inr ⟨digitsOf b, h6, h10, Nat.mod_lt _ (Nat.pow_pos (by decide)), rfl⟩⟩

/-- HOTP ends with REDUCE, and the stages before it keep DIGITS. -/
theorem hotpEffect_codeConsistent (h6 : 6 ≤ digitsOf b) (h10 : digitsOf b ≤ 10) :
    (hotpEffect b).codeConsistent := by
  have hdigits : digitsOf (truncEffect (hmacEffect b)) = digitsOf b := by simp [digitsOf]
  exact reduceEffect_codeConsistent (by rwa [hdigits]) (by rwa [hdigits])

/-- The effect of a command whose checks pass keeps the three formats of the code in agreement. -/
theorem effectOf_codeConsistent {i : Instr} (hchecks : checks i b = 0) (h : b.codeConsistent) :
    (effectOf i b).codeConsistent := by
  obtain ⟨-, -, -, hdigits⟩ := (checks_eq_zero_iff b i).1 hchecks
  cases i with
  | conv => exact h
  | zeroize => exact h
  | hmac =>
    exact (codeConsistent_congr (hmacEffect_code b) (hmacEffect_bcdLo b) (hmacEffect_bcdHi b)
      (hmacEffect_ascii b)).2 h
  | trunc =>
    exact (codeConsistent_congr (truncEffect_code b) (truncEffect_bcdLo b) (truncEffect_bcdHi b)
      (truncEffect_ascii b)).2 h
  | reduce => exact reduceEffect_codeConsistent (hdigits rfl).1 (hdigits rfl).2
  | hotp => exact hotpEffect_codeConsistent (hdigits rfl).1 (hdigits rfl).2
  | totp => exact hotpEffect_codeConsistent (b := convEffect b) (hdigits rfl).1 (hdigits rfl).2

theorem reset_codeConsistent : Block.reset.codeConsistent := ⟨rfl, rfl, .inl ⟨rfl, rfl⟩⟩

/-- Every step keeps the three formats of the code in agreement; only a completion and a reset write them. -/
theorem BlockStep.codeConsistent (hstep : BlockStep b c) (h : b.codeConsistent) : c.codeConsistent := by
  cases hstep with
  | same hc => rwa [hc]
  | overrun _ hc => rw [hc]; exact h
  | illegal op _ hc => rw [hc]; exact h
  | accepted i _ _ hc => rw [hc]; exact h
  | rejected i _ _ hc => rw [hc]; exact h
  | status w hc => rw [hc]; exact h
  | irqEn w hc => rw [hc]; exact h
  | input r w _ _ hc =>
    rw [hc]
    exact (codeConsistent_congr (storeInput_code w b r) (storeInput_bcdLo w b r) (storeInput_bcdHi w b r)
      (storeInput_ascii w b r)).2 h
  | completed i _ _ hchecks hc => rw [hc]; exact effectOf_codeConsistent hchecks h
  | reset hc => rw [hc]; exact reset_codeConsistent

/-- Every step keeps the block legal. -/
theorem BlockStep.legal (hstep : BlockStep b c) (h : b.Legal) : c.Legal := by
  obtain ⟨hpending, herr, hcode⟩ := h
  exact ⟨hstep.pendingLegal hpending, hstep.errInfoLegal herr, hstep.codeConsistent hcode⟩

/-- Settles O4: a step is one of the kinds of `BlockStep`, and each keeps the three clauses of the invariant. -/
theorem everyStepKeepsLegality : Obligations.EveryStepKeepsLegality := by
  intro s t hlegal hstep
  exact (step_blockStep hstep).legal hlegal

/-- Settles O3: the reset block is idle with nothing pending, and its ERRINFO shows no error. -/
theorem resetStateIsLegal : Obligations.ResetStateIsLegal :=
  ⟨(pendingLegal_idle rfl).2 rfl, errInfoLegal_of_none rfl, reset_codeConsistent⟩

/-! ### The engine's turn and the CMD write as runs of `exec` -/

/-- In the busy block the engine's turn is `exec` of the pending command (10_state.md R46). -/
theorem engineTurn_busy {i : Instr} (hb : s.block.status.busy = true) (hop : s.block.pendOp = opcode i) :
    engineTurn s = exec i s := by
  simp [engineTurn, hb, hop, ofOpcode_opcode]

/-- Settles O10: at the port's engine event, and at a quiet port, the step is the engine's turn. -/
theorem engineTurnRunsPendingCommand : Obligations.EngineTurnRunsPendingCommand := by
  rintro s rest i (hagenda | ⟨hagenda, rfl⟩) hb hop
  · rw [step_cons hagenda]
    exact engineTurn_busy hb hop
  · rw [step_nil hagenda]
    exact engineTurn_busy hb hop

/-- In the idle block the CMD write of a legal word is `exec` of its command (60_exceptions.md R255). -/
theorem cmdWrite_idle {i : Instr} {w : Word} (hb : s.block.status.busy = false) (hd : decode w = .ok i) :
    cmdWrite w s = exec i s := by
  simp [cmdWrite, hb, hd]

/-- CMD is reached at its own word offset and nowhere else (20_memory.md R80, R81). -/
theorem regAt_eq_cmd_iff {off : BitVec 12} : regAt off = some .cmd ↔ off &&& 0xFFC = 0x024 := by
  refine ⟨fun h => ?_, fun h => regAt_of_word h⟩
  have hword : (wordOffset off).toNat = 0x024 := by
    simp only [regAt, regAtWord] at h
    -- the three byte windows come before the word registers in the decoder
    iterate 3 (split at h; · cases h)
    unfold wordRegAt at h
    split at h <;> simp_all
  exact BitVec.eq_of_toNat_eq hword

/-- Settles O9: the write reaches CMD, and the idle block takes the decoded command. -/
theorem commandWriteRunsDecodedCommand : Obligations.CommandWriteRunsDecodedCommand := by
  intro s off w rest i hagenda hoff hb hd
  rw [step_cmdWrite hagenda (regAt_eq_cmd_iff.2 hoff)]
  exact cmdWrite_idle hb hd

/-! ### A legal machine never stops -/

/-- No completion fails in a block whose pending command is legal: its opcode is known and its checks pass. -/
theorem engineTurn_of_pendingLegal (h : s.block.pendingLegal) : ∃ t, engineTurn s = .next t := by
  rcases engineTurn_cases s with ⟨-, hnext⟩ | ⟨i, -, -, -, hnext⟩ | ⟨hb, -⟩
  · exact ⟨_, hnext⟩
  · exact ⟨_, hnext⟩
  · obtain ⟨i, hop, hchecks, -, -⟩ := (pendingLegal_busy hb).1 h
    exact ⟨_, (engineTurn_busy hb hop).trans (exec_busy hb hchecks)⟩

/-- No bus write traps, in any state (20_memory.md R79). -/
theorem busWrite_next (off : BitVec 12) (w : Word) (s : State) : ∃ t, busWrite off w s = .next t := by
  unfold busWrite
  split
  · rcases cmdWrite_cases w s with ⟨-, hnext⟩ | ⟨_, -, -, hnext⟩ | ⟨_, -, -, hnext⟩ <;> exact ⟨_, hnext⟩
  · exact ⟨_, rfl⟩

/-- Settles O5: only the engine's turn can stop, and the pending clause of the invariant rules that out. -/
theorem legalMachineNeverStops : Obligations.LegalMachineNeverStops := by
  rintro s ⟨hpending, -, -⟩
  rcases hagenda : s.agenda with _ | ⟨e, rest⟩
  · rw [step_nil hagenda]
    exact engineTurn_of_pendingLegal (s := advance [] s) hpending
  · rw [step_cons hagenda]
    cases e with
    | read off => exact ⟨_, rfl⟩
    | write off w => exact busWrite_next off w _
    | engine => exact engineTurn_of_pendingLegal (s := advance rest s) hpending
    | reset => exact ⟨_, rfl⟩

/-! ### Who may raise and lower BUSY (10_state.md R31, R32, R46) -/

/-- No write but the CMD write touches BUSY. -/
@[simp] theorem registerWrite_busy (off : BitVec 12) (w : Word) (b : Block) :
    (registerWrite off w b).status.busy = b.status.busy := by
  rcases registerWrite_cases off w b with ⟨-, h⟩ | ⟨-, h⟩ | ⟨_, -, -, -, h⟩ | ⟨_, -, -, -, h⟩ | h <;> simp [h]

/-- A CMD write raises BUSY only by accepting the command it decodes to. -/
theorem cmdWrite_busy_rises {w : Word} (h : cmdWrite w s = .next t) (hs : s.block.status.busy = false)
    (ht : t.block.status.busy = true) :
    ∃ i, decode w = .ok i ∧ checks i s.block = 0 ∧ t.block.pendOp = opcode i := by
  rcases cmdWrite_cases w s with ⟨hb, -⟩ | ⟨op, -, -, h'⟩ | ⟨i, -, hd, h'⟩
  · simp [hs] at hb
  · rw [h'] at h
    cases h
    simp [rejectIllegal, hs] at ht
  · rw [h'] at h
    cases h
    rcases issue_cases i s.block with ⟨hchecks, hissue⟩ | ⟨-, hissue⟩
    · exact ⟨i, hd, hchecks, by simp [hissue]⟩
    · simp [hissue, hs] at ht

/-- The engine's turn of an idle block leaves it idle. -/
theorem engineTurn_idle (h : engineTurn s = .next t) (hs : s.block.status.busy = false) :
    t.block.status.busy = false := by
  rcases engineTurn_block h with ⟨-, hblock⟩ | ⟨i, hb, -⟩
  · rw [hblock, hs]
  · simp [hs] at hb

/-- A step that makes BUSY rise is an accepted CMD write. -/
theorem step_busy_rises (h : step s = .next t) (hs : s.block.status.busy = false)
    (ht : t.block.status.busy = true) :
    ∃ off w rest i, s.agenda = .write off w :: rest ∧ off &&& 0xFFC = 0x024 ∧ decode w = .ok i ∧
      checks i s.block = 0 ∧ t.block.pendOp = opcode i := by
  rcases hagenda : s.agenda with _ | ⟨e, rest⟩
  · rw [step_nil hagenda] at h
    simp [engineTurn_idle h hs] at ht
  · cases e with
    | read off =>
      rw [step_read hagenda] at h
      cases h
      simp [hs] at ht
    | write off w =>
      by_cases hr : regAt off = some .cmd
      · rw [step_cmdWrite hagenda hr] at h
        obtain ⟨i, hd, hchecks, hop⟩ := cmdWrite_busy_rises h hs ht
        exact ⟨off, w, rest, i, rfl, regAt_eq_cmd_iff.1 hr, hd, hchecks, hop⟩
      · rw [step_registerWrite hagenda hr] at h
        cases h
        simp [hs] at ht
    | engine =>
      rw [step_cons hagenda] at h
      simp [engineTurn_idle h hs] at ht
    | reset =>
      rw [step_cons hagenda] at h
      cases h
      cases ht

/-- A step that makes BUSY fall is no bus transaction. -/
theorem step_busy_falls (h : step s = .next t) (hs : s.block.status.busy = true)
    (ht : t.block.status.busy = false) :
    s.agenda = [] ∨ (∃ rest, s.agenda = .engine :: rest) ∨ ∃ rest, s.agenda = .reset :: rest := by
  have not_bus {e : Event} {rest : List Event} (hagenda : s.agenda = e :: rest) : e.isBus ≠ true := by
    intro he
    obtain ⟨u, hu, -, hbusy, -⟩ := step_bus_busy hagenda he hs
    rw [h] at hu
    cases hu
    simp [hbusy] at ht
  rcases hagenda : s.agenda with _ | ⟨e, rest⟩
  · exact .inl rfl
  · cases e with
    | read off => exact absurd rfl (not_bus hagenda)
    | write off w => exact absurd rfl (not_bus hagenda)
    | engine => exact .inr (.inl ⟨rest, rfl⟩)
    | reset => exact .inr (.inr ⟨rest, rfl⟩)

/-- Settles O26, by what each kind of step does to BUSY. -/
theorem busyChangesOnlyByAcceptanceCompletionReset :
    Obligations.BusyChangesOnlyByAcceptanceCompletionReset :=
  fun _ _ h => ⟨step_busy_rises h, step_busy_falls h⟩

/-! ### Blocks that differ in KEY alone (10_state.md R44, 60_exceptions.md R265) -/

section Secret

variable (k : Vector Byte 256)

@[simp] theorem withKey_withKey (b : Block) (k' : Vector Byte 256) : (b.withKey k).withKey k' = b.withKey k' := rfl

@[simp] theorem withKey_status (b : Block) : (b.withKey k).status = b.status := rfl

@[simp] theorem withKey_block (s : State) : (s.withKey k).block = s.block.withKey k := rfl

/-- Every read answers alike: KEY reads 0 and no other register shows it (20_memory.md R80). -/
@[simp] theorem busReadWord_withKey (off : BitVec 12) (b : Block) :
    busReadWord off (b.withKey k) = busReadWord off b := by
  unfold busReadWord
  split
  · next r _ => cases r <;> rfl
  · rfl

/-- Issuing a command does not look at the secret: no check reads KEY (60_exceptions.md R254). -/
theorem issue_withKey (i : Instr) (b : Block) : issue i (b.withKey k) = (issue i b).withKey k := by
  have hchecks : checks i (b.withKey k) = checks i b := rfl
  simp only [issue, hchecks]
  split <;> rfl

/-- A CMD write keeps the secret and does not look at it. -/
theorem cmdWrite_withKey {w : Word} (h : cmdWrite w s = .next t) :
    cmdWrite w (s.withKey k) = .next (t.withKey k) := by
  rcases cmdWrite_cases w s with ⟨hb, h'⟩ | ⟨op, hb, hd, h'⟩ | ⟨i, hb, hd, h'⟩ <;> rw [h'] at h <;> cases h
  · simp only [cmdWrite, withKey_block, withKey_status, hb]
    rfl
  · simp only [cmdWrite, withKey_block, withKey_status, hb, hd]
    rfl
  · rw [cmdWrite_idle (by exact hb) hd, exec_idle (by exact hb), withKey_block, issue_withKey]
    rfl

/-- A store changes KEY alone, by the written word, or does not look at it. -/
theorem storeInput_withKey (w : Word) (b : Block) (r : Reg) :
    ∃ k', storeInput w (b.withKey k) r = (storeInput w b r).withKey k' := by
  cases r with
  | key j => exact ⟨storeWord k j.val w, rfl⟩
  | _ => exact ⟨k, rfl⟩

/-- A register write changes KEY alone, by the written word, or does not look at it. -/
theorem registerWrite_withKey (off : BitVec 12) (w : Word) (b : Block) :
    ∃ k', registerWrite off w (b.withKey k) = (registerWrite off w b).withKey k' := by
  rcases hr : regAt off with _ | r
  · exact ⟨k, by simp only [registerWrite, hr]⟩
  · cases hi : isInput r with
    | true =>
      rw [registerWrite_input hr hi, registerWrite_input hr hi, withKey_status]
      cases b.status.busy with
      | true => exact ⟨k, rfl⟩
      | false => exact storeInput_withKey k w b r
    | false =>
      refine ⟨k, ?_⟩
      simp only [registerWrite, hr]
      cases r <;> cases hi <;> rfl

/-- A bus transaction keeps two machines that differ in KEY alone so; their answers at the port are equal. -/
theorem step_bus_withKey {e : Event} {rest : List Event} (hagenda : s.agenda = e :: rest) (he : e.isBus = true)
    (h : step s = .next t) : ∃ k', step (s.withKey k) = .next (t.withKey k') := by
  have hagenda' : (s.withKey k).agenda = e :: rest := hagenda
  cases e with
  | engine => cases he
  | reset => cases he
  | read off =>
    rw [step_read hagenda] at h
    cases h
    exact ⟨k, by rw [step_read hagenda', withKey_block, busReadWord_withKey]; rfl⟩
  | write off w =>
    by_cases hr : regAt off = some .cmd
    · rw [step_cmdWrite hagenda hr] at h
      exact ⟨k, by rw [step_cmdWrite hagenda' hr]; exact cmdWrite_withKey k h⟩
    · rw [step_registerWrite hagenda hr] at h
      cases h
      obtain ⟨k', hk'⟩ := registerWrite_withKey k off w s.block
      exact ⟨k', by rw [step_registerWrite hagenda' hr, withKey_block, hk']; rfl⟩

end Secret

/-- Settles O55, by induction on the number of transactions taken. -/
theorem busTransactionsNeverRevealTheKey : Obligations.BusTransactionsNeverRevealTheKey := by
  intro n
  induction n with
  | zero =>
    intro s t k _ _ h
    rw [runsTo_zero] at h
    exact ⟨k, runsTo_zero.2 (by rw [h])⟩
  | succ n ih =>
    intro s t k hbus hlen h
    obtain ⟨u, hstep, hrun⟩ := runsTo_succ.1 h
    have htail := step_agenda hstep
    rcases hagenda : s.agenda with _ | ⟨e, rest⟩
    · simp [hagenda] at hlen
    · rw [hagenda] at hbus hlen htail
      obtain ⟨k', hk'⟩ := step_bus_withKey k hagenda (hbus e (by simp)) hstep
      obtain ⟨k'', hk''⟩ := ih u t k' (fun x hx => hbus x (by simp_all)) (by simpa [htail] using hlen) hrun
      exact ⟨k'', runsTo_succ.2 ⟨_, hk', hk''⟩⟩

/-! ### The reset values (10_state.md R50) and the identity registers (R22) -/

/-- A window at its reset value reads 0x00 in every byte. -/
@[simp] theorem byteAt_replicate_zero (n i : Nat) : byteAt (Vector.replicate n (0x00 : Byte)) i = 0 := by
  unfold byteAt
  by_cases h : i < n <;> simp [h]

/-- Settles O1: the registers by evaluation, the three windows byte by byte. -/
theorem resetStateHoldsTheResetValues : Obligations.ResetStateHoldsTheResetValues := by
  refine ⟨by decide, by decide, by decide, by decide, by decide, by decide, ?_, ?_, ?_, by decide⟩
  · exact fun i _ => byteAt_replicate_zero 16 i
  · exact fun i _ => byteAt_replicate_zero 64 i
  · exact fun i _ => byteAt_replicate_zero 256 i

/-- A read step that reaches register `r` answers `readReg` (20_memory.md R80). -/
theorem step_read_reg {off : BitVec 12} {rest : List Event} {r : Reg} (hr : regAt off = some r) (s : State) :
    step { s with agenda := .read off :: rest } =
      .next { s with agenda := rest, readData := some (readReg s.block r) } := by
  rw [step_read rfl, busReadWord, hr]

/-- A write step to a register that is no input, no CMD, no STATUS and no IRQ_EN changes nothing but the port
(20_memory.md R81). -/
theorem step_write_readOnly {off : BitVec 12} {rest : List Event} {r : Reg} (w : Word) (hr : regAt off = some r)
    (hi : isInput r = false) (hcmd : r ≠ .cmd) (hstatus : r ≠ .status) (hirq : r ≠ .irqEn) (s : State) :
    step { s with agenda := .write off w :: rest } = .next { s with agenda := rest, readData := none } := by
  have hkept : registerWrite off w s.block = s.block := by
    refine registerWrite_ignored fun q hq => ?_
    cases hr.symm.trans hq
    exact ⟨hi, hstatus, hirq⟩
  rw [step_registerWrite rfl (by rw [hr]; simpa using hcmd)]
  simp only [hkept]

/-- Settles O19: the word offsets 0x000 and 0x004 reach ID and VERSION, whose reads are constants and whose writes are
ignored. -/
theorem identityRegistersAreHardwired : Obligations.IdentityRegistersAreHardwired := by
  intro s off w rest
  have hid (h : off &&& 0xFFC = 0x000) : regAt off = some .id := regAt_of_word h
  have hversion (h : off &&& 0xFFC = 0x004) : regAt off = some .version := regAt_of_word h
  refine ⟨fun h => step_read_reg (hid h) s, fun h => step_read_reg (hversion h) s, ?_⟩
  rintro (h | h)
  · exact step_write_readOnly w (hid h) rfl (by decide) (by decide) (by decide) s
  · exact step_write_readOnly w (hversion h) rfl (by decide) (by decide) (by decide) s

end Sys2Proof.Machine

/-! ### The address decoder, from the map's side (20_memory.md R71, R80, R81; 30_encoding.md R113) -/

namespace Sys2Proof.Machine

variable {s t : State} {off off' : BitVec 12} {w : Word} {rest : List Event}

/-- A transaction at a register's word offset reaches it (30_encoding.md R113). -/
theorem regAt_of_off (r : Reg) (h : off &&& 0xFFC = r.off) : regAt off = some r := by
  rw [regAt_of_word h]
  cases r with
  | codeAscii k => exact regAtWord_ascii k.isLt
  | digest k => exact regAtWord_digest k.isLt
  | key k => exact regAtWord_key k.isLt
  | _ => rfl

/-- The decoder looks at nothing but the word offset (20_memory.md R71). -/
theorem regAt_congr (h : off &&& 0xFFC = off' &&& 0xFFC) : regAt off = regAt off' := by
  rw [regAt_of_word h, regAt_of_word rfl]

/-- Where a register that takes writes may lie (20_memory.md R81). -/
theorem regAtWord_writable {o : Nat} {q : Reg} (hq : regAtWord o = some q)
    (hw : isInput q = true ∨ q = .cmd ∨ q = .status ∨ q = .irqEn) :
    (0x008 ≤ o ∧ o ≤ 0x028) ∨ o = 0x030 ∨ o = 0x038 ∨ (0x100 ≤ o ∧ o ≤ 0x13C) ∨ (0x200 ≤ o ∧ o ≤ 0x2FC) := by
  unfold regAtWord at hq
  split at hq
  · cases hq
    simp [isInput] at hw
  split at hq
  · omega
  split at hq
  · omega
  unfold wordRegAt at hq
  split at hq <;> cases hq <;> simp [isInput] at hw ⊢

/-! ### The bus steps, by the register reached -/

/-- A read at a register's word offset answers its view (20_memory.md R80). -/
theorem busReadWord_of_off (r : Reg) (b : Block) (h : off &&& 0xFFC = r.off) : busReadWord off b = readReg b r := by
  rw [busReadWord, regAt_of_off r h]

/-- A read that reaches no register answers 0 (20_memory.md R72). -/
theorem busReadWord_of_none (b : Block) (h : regAt off = none) : busReadWord off b = 0 := by
  rw [busReadWord, h]

/-- A write step at an input register's word offset: stored while idle, dropped with OVERRUN while BUSY
(20_memory.md R81). -/
theorem step_write_input (r : Reg) (hi : isInput r = true) (hagenda : s.agenda = .write off w :: rest)
    (h : off &&& 0xFFC = r.off) :
    step s = .next { s with
      agenda := rest
      readData := none
      block := if s.block.status.busy then setOverrun s.block else storeInput w s.block r } := by
  have hr := regAt_of_off r h
  have hcmd : regAt off ≠ some .cmd := by
    rw [hr]
    rintro ⟨⟩
    cases hi
  rw [step_registerWrite hagenda hcmd, registerWrite_input hr hi]

/-- A write step that reaches no register that takes writes changes nothing but the port (20_memory.md R72, R81). -/
theorem step_write_ignored (hagenda : s.agenda = .write off w :: rest)
    (h : ∀ q, regAt off = some q → ¬(isInput q = true ∨ q = .cmd ∨ q = .status ∨ q = .irqEn)) :
    step s = .next { s with agenda := rest, readData := none } := by
  have hkept : registerWrite off w s.block = s.block := by
    refine registerWrite_ignored fun q hq => ?_
    have hq' := h q hq
    simp only [not_or, Bool.not_eq_true] at hq'
    obtain ⟨hinput, -, hstatus, hirq⟩ := hq'
    exact ⟨hinput, hstatus, hirq⟩
  have hcmd : regAt off ≠ some .cmd := fun hc => h .cmd hc (.inr (.inl rfl))
  rw [step_registerWrite hagenda hcmd, hkept]

/-- A STATUS write clears the flags whose bit is 1 (20_memory.md R81). -/
theorem clearedBy_eq (x : Status) (w : Word) :
    x.clearedBy w = { x with
      done := if w.getLsbD 1 then false else x.done
      err := if w.getLsbD 2 then false else x.err
      overrun := if w.getLsbD 3 then false else x.overrun } := by
  have hclear (flag bit : Bool) : (flag && !bit) = if bit then false else flag := by cases bit <;> simp
  simp only [Status.clearedBy, hclear]

/-- Settles O15: each word offset reaches the register of the map, and a read step answers its view. -/
theorem busReadAnswersRegisterView : Obligations.BusReadAnswersRegisterView := by
  intro s off rest hagenda
  have view (r : Reg) (h : off &&& 0xFFC = r.off) := busReadWord_of_off r s.block h
  refine ⟨busReadWord off s.block, step_read hagenda, view .id, view .version, view .ctrl, view .period, view .timeLo,
    view .timeHi, view .counterLo, view .counterHi, view .keylen, view .cmd, view .status, view .errinfo, view .irqEn,
    view .offset, view .binary, view .code, view .codeBcdLo, view .codeBcdHi, fun k hk => view (.codeAscii ⟨k, hk⟩),
    fun k hk => view (.digest ⟨k, hk⟩), fun k hk => view (.key ⟨k, hk⟩), fun h => ?_⟩
  exact busReadWord_of_none s.block (regAtWord_reserved h)

/-- Settles O16: each word offset reaches the register of the map; CMD, STATUS and IRQ_EN each have a write of their own,
the input registers share one, and no other register takes writes. -/
theorem busWriteFollowsRegisterMap : Obligations.BusWriteFollowsRegisterMap := by
  intro s off w rest hagenda
  have input (r : Reg) (hi : isInput r = true) (h : off &&& 0xFFC = r.off) := step_write_input r hi hagenda h
  refine ⟨fun h => step_cmdWrite hagenda (regAt_of_off .cmd h), fun h => ?_, fun h => ?_, input .ctrl rfl,
    input .period rfl, input .timeLo rfl, input .timeHi rfl, input .counterLo rfl, input .counterHi rfl,
    input .keylen rfl, input .binary rfl, fun k hk => input (.digest ⟨k, hk⟩) rfl,
    fun k hk => input (.key ⟨k, hk⟩) rfl, fun h => ?_⟩
  · have hr := regAt_of_off .status h
    rw [step_registerWrite hagenda (by simp [hr]), ← clearedBy_eq]
    simp only [registerWrite, hr, writeStatus]
  · have hr := regAt_of_off .irqEn h
    rw [step_registerWrite hagenda (by simp [hr])]
    simp only [registerWrite, hr, writeIrqEn, IrqEn.ofWord]
  · refine step_write_ignored hagenda fun q hq hw => ?_
    have hplace := regAtWord_writable (o := (off &&& 0xFFC).toNat) hq hw
    omega

/-- A write sees the offset only through the register it reaches (20_memory.md R71, R81). -/
theorem busWrite_congr (h : regAt off = regAt off') (w : Word) (s : State) : busWrite off w s = busWrite off' w s := by
  simp only [busWrite, registerWrite, h]

/-- A read sees the offset only through the register it reaches (20_memory.md R71, R80). -/
theorem busReadWord_congr (h : regAt off = regAt off') (b : Block) : busReadWord off b = busReadWord off' b := by
  simp only [busReadWord, h]

/-- Settles O17: a step sees the offset only through the register it reaches. -/
theorem offsetLowBitsAreNotDecoded : Obligations.OffsetLowBitsAreNotDecoded := by
  intro s off off' w rest h
  have hr := regAt_congr h
  constructor
  · rw [step_read rfl, step_read rfl, busReadWord_congr hr]
  · rw [step_write rfl, step_write rfl, busWrite_congr hr]
    rfl

/-! ### Reserved bits (20_memory.md R72) -/

/-- Masking a concatenation masks its parts. -/
theorem append_and_eq_zero {m n : Nat} {x a : BitVec m} {y b : BitVec n} (hx : x &&& a = 0#m) (hy : y &&& b = 0#n) :
    (x ++ y) &&& (a ++ b) = 0#(m + n) := by
  rw [BitVec.and_append, hx, hy, BitVec.zero_append_zero]

/-- A field under reserved bits: a mask of the bits above it meets zeros alone. -/
theorem field_and_upper_eq_zero {m n : Nat} (mask : BitVec m) (x : BitVec n) :
    (0#m ++ x) &&& (mask ++ 0#n) = 0#(m + n) :=
  append_and_eq_zero BitVec.zero_and BitVec.and_zero

/-- One more field, with reserved bits between it and the word's upper part. -/
theorem field_below_and_eq_zero {k m n : Nat} {x a : BitVec k} (h : x &&& a = 0#k) (mask : BitVec m) (y : BitVec n) :
    (x ++ 0#m ++ y) &&& (a ++ mask ++ 0#n) = 0#(k + m + n) :=
  append_and_eq_zero (append_and_eq_zero h BitVec.zero_and) BitVec.and_zero

/-- One more flag at the bottom of the word. -/
theorem flag_below_and_eq_zero {k : Nat} {x a : BitVec k} (h : x &&& a = 0#k) (flag : Bool) :
    (x ++ BitVec.ofBool flag) &&& (a ++ 0#1) = 0#(k + 1) :=
  append_and_eq_zero h BitVec.and_zero

/-- Settles O18: a reserved offset reaches no register; in each register the mask is all ones over reserved bits and zero
over the fields. -/
theorem reservedOffsetsAndBitsReadZero : Obligations.ReservedOffsetsAndBitsReadZero := by
  constructor
  · rintro s off w rest o rfl hreserved
    have hr : regAt off = none := regAtWord_reserved hreserved
    exact ⟨by rw [step_read rfl, busReadWord_of_none _ hr], step_write_ignored rfl (by simp [hr])⟩
  · intro b
    have ctrl := field_below_and_eq_zero (field_and_upper_eq_zero 0xFFFFFF#24 b.ctrl.digits) 0x3#2 b.ctrl.alg
    have keylen := field_and_upper_eq_zero 0xFFFF#16 b.keylen
    have status := flag_below_and_eq_zero (flag_below_and_eq_zero (flag_below_and_eq_zero
      (field_and_upper_eq_zero 0xFFFFFFF#28 (BitVec.ofBool b.status.overrun)) b.status.err) b.status.done) b.status.busy
    have errinfo := field_below_and_eq_zero (field_below_and_eq_zero
      (field_and_upper_eq_zero 0xFFF#12 b.errInfo.op) 0xF#4 b.errInfo.cause) 0xF#4 b.errInfo.code
    have irqEn := flag_below_and_eq_zero (flag_below_and_eq_zero
      (field_and_upper_eq_zero 0x1FFFFFFF#29 (BitVec.ofBool b.irqEn.ovrIe)) b.irqEn.errIe) b.irqEn.doneIe
    have offset := field_and_upper_eq_zero 0xFFFFFFF#28 b.offset
    have bcdHi := field_and_upper_eq_zero 0xFFFFFF#24 b.bcdHi
    exact ⟨ctrl, keylen, status, errinfo, irqEn, offset, bcdHi⟩

/-! ### Byte windows and 64-bit values (20_memory.md R73, R74, R75) -/

/-- A word store keeps every byte outside its word, and there is no byte beyond the window (20_memory.md R73). -/
theorem byteAt_storeWord_other {n : Nat} (v : Vector Byte n) {k : Nat} (w : Word) {i : Nat} (h : i / 4 ≠ k) :
    byteAt (storeWord v k w) i = byteAt v i := by
  by_cases hi : i < n
  · rw [byteAt_storeWord v k w hi, if_neg h]
  · simp [byteAt, hi]

/-- Byte j of a stored word (20_memory.md R73). -/
theorem byteAt_storeWord_same {n : Nat} (v : Vector Byte n) {k : Nat} (w : Word) {j : Nat} (hj : j < 4)
    (h : 4 * k + j < n) : byteAt (storeWord v k w) (4 * k + j) = w.toNat / 2 ^ (24 - 8 * j) % 256 := by
  rw [byteAt_storeWord v k w h, if_pos (by omega), byteOfWord_toNat, show (4 * k + j) % 4 = j by omega]

/-- The word read, as its four bytes, byte 4k most significant (20_memory.md R73). -/
theorem winWord_toNat {n : Nat} (v : Vector Byte n) (k : Nat) :
    (winWord v k).toNat =
      byteAt v (4 * k) * 2 ^ 24 + byteAt v (4 * k + 1) * 2 ^ 16 + byteAt v (4 * k + 2) * 2 ^ 8 + byteAt v (4 * k + 3) :=
  fourBytes_toNat _ _ _ _

/-- Settles O20: the bytes of a stored word are its base-256 digits, so reading them back gives the word. -/
theorem byteWindowsAreBigEndian : Obligations.ByteWindowsAreBigEndian := by
  intro n v k w h
  have hw := w.isLt
  have h0 : byteAt (storeWord v k w) (4 * k) = w.toNat / 2 ^ 24 := by
    have hbyte : byteAt (storeWord v k w) (4 * k) = w.toNat / 2 ^ 24 % 256 :=
      byteAt_storeWord_same v w (j := 0) (by decide) (by omega)
    omega
  have h1 : byteAt (storeWord v k w) (4 * k + 1) = w.toNat / 2 ^ 16 % 256 :=
    byteAt_storeWord_same v w (by decide) (by omega)
  have h2 : byteAt (storeWord v k w) (4 * k + 2) = w.toNat / 2 ^ 8 % 256 :=
    byteAt_storeWord_same v w (by decide) (by omega)
  have h3 : byteAt (storeWord v k w) (4 * k + 3) = w.toNat % 256 := by
    simpa using byteAt_storeWord_same v w (by decide) h
  refine ⟨winWord_toNat v k, h0, h1, h2, h3, fun i hi => byteAt_storeWord_other v w (by omega), ?_⟩
  apply BitVec.eq_of_toNat_eq
  rw [winWord_toNat, h0, h1, h2, h3]
  omega

/-- Settles O37: the digits of `HI * 2^32 + LO` to base 256. -/
theorem messageIsBigEndianCounter : Obligations.MessageIsBigEndianCounter := by
  intro b
  have hhi := b.counterHi.isLt
  have hlo := b.counterLo.isLt
  simp only [messageOf, counterOf, twoWords_toNat, beBytes, List.map_cons, List.map_nil, BitVec.toNat_ofNat,
    List.cons.injEq, and_true]
  omega

/-! ### What a bus transaction changes (20_memory.md R74, R83) -/

/-- `c` is `b` but for STATUS, ERRINFO, IRQ_EN and PEND_OP. -/
def Block.sameData (b c : Block) : Prop :=
  c = { b with status := c.status, errInfo := c.errInfo, irqEn := c.irqEn, pendOp := c.pendOp }

/-- A CMD write starts or refuses a command and computes nothing (60_exceptions.md R255, R258). -/
theorem cmdWrite_sameData (h : cmdWrite w s = .next t) : s.block.sameData t.block := by
  rcases cmdWrite_cases w s with ⟨-, h'⟩ | ⟨op, -, -, h'⟩ | ⟨i, -, -, h'⟩ <;> rw [h'] at h <;> cases h
  · rfl
  · rfl
  · rw [withBlock_block]
    rcases issue_cases i s.block with ⟨-, hissue⟩ | ⟨-, hissue⟩ <;> rw [hissue] <;> rfl

/-- Everything a bus transaction can do to the block: it stores a word in one input register, or it keeps every register
but STATUS, ERRINFO, IRQ_EN and PEND_OP. -/
theorem step_bus_block {e : Event} (hagenda : s.agenda = e :: rest) (he : e.isBus = true) (h : step s = .next t) :
    (∃ r w, isInput r = true ∧ t.block = storeInput w s.block r) ∨ s.block.sameData t.block := by
  cases e with
  | engine => cases he
  | reset => cases he
  | read off =>
    rw [step_read hagenda] at h
    cases h
    exact .inr rfl
  | write off w =>
    by_cases hr : regAt off = some .cmd
    · rw [step_cmdWrite hagenda hr] at h
      exact .inr (cmdWrite_sameData (s := advance rest s) h)
    · rw [step_registerWrite hagenda hr] at h
      cases h
      dsimp only
      rcases registerWrite_cases off w s.block with ⟨-, h⟩ | ⟨-, h⟩ | ⟨r, -, -, -, h⟩ | ⟨r, -, hi, -, h⟩ | h <;> rw [h]
      · exact .inr rfl
      · exact .inr rfl
      · exact .inr rfl
      · exact .inl ⟨r, w, hi, rfl⟩
      · exact .inr rfl

/-- A store changes one half of a 64-bit value at most (20_memory.md R74). -/
theorem storeInput_keeps_half (w : Word) (b : Block) (r : Reg) :
    ((storeInput w b r).timeLo = b.timeLo ∨ (storeInput w b r).timeHi = b.timeHi) ∧
      ((storeInput w b r).counterLo = b.counterLo ∨ (storeInput w b r).counterHi = b.counterHi) := by
  cases r with
  | timeLo => exact ⟨.inr rfl, .inl rfl⟩
  | counterLo => exact ⟨.inl rfl, .inr rfl⟩
  | _ => simp [storeInput]

/-- Settles O21: the halves are read at their own offsets, and a transaction stores in one register at most. -/
theorem sixtyFourBitValuesAreTwoWords : Obligations.SixtyFourBitValuesAreTwoWords := by
  constructor
  · exact fun b => ⟨twoWords_toNat _ _, twoWords_toNat _ _, busReadWord_of_off .timeLo b rfl,
      busReadWord_of_off .timeHi b rfl, busReadWord_of_off .counterLo b rfl, busReadWord_of_off .counterHi b rfl⟩
  · intro s t e rest hagenda he h
    rcases step_bus_block hagenda he h with ⟨r, w, -, hblock⟩ | hblock
    · rw [hblock]
      exact storeInput_keeps_half w s.block r
    · rw [hblock]
      exact ⟨.inl rfl, .inl rfl⟩

/-- Settles O27: no input register is a result, and the engine's turn of an idle block keeps the whole block. -/
theorem readOnlyResultsChangeOnlyAtCompletion : Obligations.ReadOnlyResultsChangeOnlyAtCompletion := by
  rintro s t e rest h hagenda (he | ⟨rfl, hidle⟩)
  · rcases step_bus_block hagenda he h with ⟨r, w, -, hblock⟩ | hblock
    · simp [hblock]
    · rw [hblock]
      exact ⟨rfl, rfl, rfl, rfl, rfl⟩
  · rw [step_cons hagenda] at h
    rcases engineTurn_block h with ⟨-, hblock⟩ | ⟨i, hbusy, -⟩
    · simp [hblock]
    · simp [hidle] at hbusy

/-! ### The window in the host's address space (20_memory.md R70) -/

theorem windowOffset_eq_none_iff {addr : Nat} :
    windowOffset addr = none ↔ addr < Config.baseAddr ∨ Config.baseAddr + 4096 ≤ addr := by
  simp only [windowOffset, ite_eq_right_iff, reduceCtorEq, imp_false]
  omega

theorem windowOffset_eq_some_iff {addr : Nat} {off : BitVec 12} :
    windowOffset addr = some off ↔ addr = hostAddress off := by
  have hoff := off.isLt
  simp only [windowOffset, hostAddress, Option.ite_none_right_eq_some, Option.some.injEq, ← BitVec.toNat_inj,
    BitVec.toNat_ofNat]
  omega

/-- Settles O23: an offset's host address is the one address that reaches it. -/
theorem hostAddressesOfTheWindow : Obligations.HostAddressesOfTheWindow :=
  ⟨Nat.mul_mod_right _ _, fun _ => windowOffset_eq_some_iff.2 rfl, fun _ _ => windowOffset_eq_some_iff.1,
    fun _ => windowOffset_eq_none_iff⟩

end Sys2Proof.Machine

/-! ### The decoder, as an equation on the opcode field (30_encoding.md R100, R101, R103, R108) -/

namespace Sys2Proof

/-- The decoder looks at the opcode field alone (30_encoding.md R103). -/
theorem decode_congr {w w' : Word} (h : opField w = opField w') : decode w = decode w' := by
  simp only [decode, h]

theorem decode_eq_ok_iff {w : Word} {i : Instr} : decode w = .ok i ↔ opField w = opcode i := by
  refine ⟨opField_of_decode, fun h => ?_⟩
  simp only [decode, h, ofOpcode_opcode]

/-- The reserved opcodes (30_encoding.md R108). -/
theorem ofOpcode_eq_none_iff {op : BitVec 4} : ofOpcode op = none ↔ op.toNat = 0 ∨ 8 ≤ op.toNat := by
  rw [← Option.not_isSome_iff_eq_none, ofOpcode_isSome, legalOp, Bool.and_eq_true, decide_eq_true_iff,
    decide_eq_true_iff]
  omega

theorem decode_eq_error_iff {w : Word} {op : BitVec 4} :
    decode w = .error (.illegalCommand op) ↔ op = opField w ∧ (op.toNat = 0 ∨ 8 ≤ op.toNat) := by
  rcases h : ofOpcode (opField w) with _ | i
  · have herror : decode w = .error (.illegalCommand (opField w)) := by simp only [decode, h]
    rw [herror]
    constructor
    · rintro ⟨⟩
      exact ⟨rfl, ofOpcode_eq_none_iff.1 h⟩
    · rintro ⟨rfl, -⟩
      rfl
  · have hok : decode w = .ok i := by simp only [decode, h]
    rw [hok]
    refine ⟨nofun, ?_⟩
    rintro ⟨rfl, hop⟩
    simp [ofOpcode_eq_none_iff.2 hop] at h

/-- A CMD word is its ignored bits over its opcode field (30_encoding.md R100). -/
theorem ignored_append_opField (w : Word) : w.extractLsb' 4 28 ++ opField w = w :=
  BitVec.extractLsb'_append_extractLsb' (w := 28) (len := 4)

/-- Clearing bits 31:4 keeps the opcode field. -/
theorem opField_and_low (w : Word) : opField (w &&& 0xF) = opField w := by
  have hmask : (0xF : Word).extractLsb' 0 4 = BitVec.allOnes 4 := by decide
  rw [opField, BitVec.extractLsb'_and, hmask, BitVec.and_allOnes, opField]

/-- Settles O7: the decoder reads the opcode field, the map of the opcodes is a bijection onto 1 to 7, and a word is its
ignored bits over that field. -/
theorem decodeAndEncodeAgree : Obligations.DecodeAndEncodeAgree := by
  refine ⟨fun x i => decode_eq_ok_iff.2 (opField_encodeWith x i), fun w i h => ?_, fun w op => decode_eq_error_iff⟩
  rw [encodeWith, ← decode_eq_ok_iff.1 h, ignored_append_opField]

/-- Settles O6, by evaluation: the words are literals. -/
theorem writtenOutWordsDecode : Obligations.WrittenOutWordsDecode := by
  unfold Obligations.WrittenOutWordsDecode
  decide

end Sys2Proof

/-! ### The CMD write and the register map (30_encoding.md R103, R113) -/

namespace Sys2Proof.Machine

variable {s t : State} {off : BitVec 12} {rest : List Event}

/-- A CMD write sees the word only through its opcode field (30_encoding.md R103). -/
theorem cmdWrite_congr {w w' : Word} (h : opField w = opField w') (s : State) : cmdWrite w s = cmdWrite w' s := by
  simp only [cmdWrite, decode_congr h]

/-- Settles O8: the step is the CMD write, which sees the opcode field alone. -/
theorem ignoredCommandBitsChangeNothing : Obligations.IgnoredCommandBitsChangeNothing := by
  intro s off w rest hoff
  have hr := regAt_eq_cmd_iff.2 hoff
  rw [step_cmdWrite rfl hr, step_cmdWrite rfl hr]
  exact cmdWrite_congr (opField_and_low w).symm _

/-- The map's offsets are word offsets (20_memory.md R71). -/
theorem off_and_mask (r : Reg) : r.off &&& 0xFFC = r.off := by
  cases r with
  | codeAscii k => revert k; decide
  | digest k => revert k; decide
  | key k => revert k; decide
  | _ => rfl

/-- Where the decoder finds a word register, the map has it. -/
theorem off_of_wordRegAt {o : Nat} {r : Reg} (h : wordRegAt o = some r) : r.off = BitVec.ofNat 12 o := by
  unfold wordRegAt at h
  split at h <;> cases h <;> rfl

/-- Where the decoder finds a register at a word offset, the map has it. -/
theorem off_of_regAtWord {o : Nat} {r : Reg} (ho : o % 4 = 0) (h : regAtWord o = some r) :
    r.off = BitVec.ofNat 12 o := by
  unfold regAtWord at h
  -- in each of the three byte windows the word number, times 4, is the place in the window
  iterate 3
    split at h
    · cases h
      exact congrArg (BitVec.ofNat 12) (by rw [Fin.val_ofNat]; omega)
  exact off_of_wordRegAt h

/-- Masking offset bits 1:0 leaves a multiple of 4. -/
theorem wordOffset_mod_four (off : BitVec 12) : (wordOffset off).toNat % 4 = 0 := by
  rw [wordOffset, BitVec.toNat_and]
  exact (Nat.and_mod_two_pow (n := 2)).trans (Nat.and_zero _)

/-- Settles O22: the map's offsets are word offsets, and each range of the decoder is the map's. -/
theorem registerMapAndDecoderAgree : Obligations.RegisterMapAndDecoderAgree := by
  refine ⟨fun r => regAt_of_off r (off_and_mask r), fun off r h => ?_⟩
  rw [off_of_regAtWord (wordOffset_mod_four off) h, BitVec.ofNat_toNat, BitVec.setWidth_eq, wordOffset]

/-! ### The secret outside the completions of HMAC, HOTP and TOTP (30_encoding.md R104, 10_state.md R44) -/

/-- The completion of a command that reads no key changes KEY alone or does not look at it. -/
theorem finish_effectOf_withKey (k : Vector Byte 256) {i : Instr} (b : Block) (h : usesKey (opcode i) = false) :
    ∃ k', finish (effectOf i (b.withKey k)) = (finish (effectOf i b)).withKey k' := by
  cases i with
  | conv => exact ⟨k, rfl⟩
  | reduce => exact ⟨k, rfl⟩
  | zeroize => exact ⟨Vector.replicate 256 0x00, rfl⟩
  | trunc =>
    refine ⟨k, ?_⟩
    simp only [effectOf, truncEffect, Block.withKey]
    split <;> rfl
  | hmac => cases h
  | hotp => cases h
  | totp => cases h

/-- The engine's turn keeps two machines that differ in KEY alone so, but where it completes HMAC, HOTP or TOTP. -/
theorem engineTurn_withKey (k : Vector Byte 256) (h : engineTurn s = .next t)
    (hop : s.block.status.busy = true → usesKey s.block.pendOp = false) :
    ∃ k', engineTurn (s.withKey k) = .next (t.withKey k') := by
  rcases engineTurn_cases s with ⟨hb, h'⟩ | ⟨i, hb, hp, hc, h'⟩ | ⟨-, f, h'⟩ <;> rw [h'] at h <;> cases h
  · exact ⟨k, by simp [engineTurn, hb]⟩
  · have hpend : s.block.pendOp = opcode i := (opcode_of_ofOpcode hp).symm
    obtain ⟨k', hk'⟩ := finish_effectOf_withKey k s.block (hpend ▸ hop hb)
    refine ⟨k', ?_⟩
    rw [engineTurn_busy (s := s.withKey k) hb hpend, exec_busy (s := s.withKey k) hb hc, withKey_block, hk']
    rfl

/-- Settles O56, by the kind of the step: a bus transaction, an engine's turn (or a quiet port), a reset. -/
theorem onlyHmacCommandsUseTheKey : Obligations.OnlyHmacCommandsUseTheKey := by
  intro s t k hother h
  have noKey (hengine : ∀ e rest, s.agenda = e :: rest → e = .engine) (hb : s.block.status.busy = true) :
      usesKey s.block.pendOp = false := by
    by_contra hkey
    obtain ⟨e, rest, hagenda, hne⟩ := hother hb (by simpa using hkey)
    exact hne (hengine e rest hagenda)
  rcases hagenda : s.agenda with _ | ⟨e, rest⟩
  · rw [step_nil hagenda] at h
    rw [step_nil (s := s.withKey k) hagenda]
    exact engineTurn_withKey (s := advance [] s) k h (noKey (by simp [hagenda]))
  · cases e with
    | read off => exact step_bus_withKey k hagenda rfl h
    | write off w => exact step_bus_withKey k hagenda rfl h
    | engine =>
      rw [step_cons hagenda] at h
      rw [step_cons (s := s.withKey k) hagenda]
      exact engineTurn_withKey (s := advance rest s) k h (noKey (by simp [hagenda]))
    | reset =>
      rw [step_cons hagenda] at h
      cases h
      exact ⟨Block.reset.key, by rw [step_cons (s := s.withKey k) hagenda]; rfl⟩

/-! ### Runs of stores in the idle block (20_memory.md R81) -/

/-- The host's writes of words to registers, in order. -/
def storeEvents (ws : List (Reg × Word)) : List Event := ws.map fun x => .write x.1.off x.2

@[simp] theorem storeEvents_length (ws : List (Reg × Word)) : (storeEvents ws).length = ws.length := List.length_map _

/-- The block after the stores of words in input registers, in order. -/
def storeInputs (ws : List (Reg × Word)) (b : Block) : Block := ws.foldl (fun b x => storeInput x.2 b x.1) b

/-- Writes of input registers, run in an idle block, are the stores. -/
theorem runsTo_storeInputs {ws : List (Reg × Word)} (hagenda : s.agenda = storeEvents ws ++ rest)
    (hin : ∀ x ∈ ws, isInput x.1 = true) (hb : s.block.status.busy = false) :
    ∃ t, RunsTo ws.length s t ∧ t.agenda = rest ∧ t.block = storeInputs ws s.block := by
  induction ws generalizing s with
  | nil => exact ⟨s, runsTo_zero.2 rfl, hagenda, rfl⟩
  | cons x ws ih =>
    have hstep := step_write_input x.1 (hin x (by simp)) hagenda (off_and_mask x.1)
    rw [if_neg (by simp [hb])] at hstep
    obtain ⟨t, hrun, ht⟩ := ih (s := { s with agenda := _, readData := none, block := storeInput x.2 s.block x.1 })
      rfl (fun y hy => hin y (by simp [hy])) (by simpa using hb)
    exact ⟨t, runsTo_succ.2 ⟨_, hstep, hrun⟩, ht⟩

/-! ### LOADKEY (30_encoding.md R112) -/

/-- Byte j of a key word is the key's byte 4k + j, 0x00 beyond its end (30_encoding.md R112). -/
theorem byteOfWord_keyWord (bytes : List Byte) (k : Nat) {j : Nat} (hj : j < 4) :
    byteOfWord (keyWord bytes k) j = bytes.getD (4 * k + j) 0 := by
  apply BitVec.eq_of_toNat_eq
  have h0 := (bytes.getD (4 * k) 0).isLt
  have h1 := (bytes.getD (4 * k + 1) 0).isLt
  have h2 := (bytes.getD (4 * k + 2) 0).isLt
  have h3 := (bytes.getD (4 * k + 3) 0).isLt
  rw [byteOfWord_toNat, keyWord, fourBytes_toNat]
  interval_cases j
  · show _ = (bytes.getD (4 * k) 0).toNat
    omega
  all_goals omega

/-- The stores of the words of a key in the first n words of the window. -/
def keyWrites (bytes : List Byte) (n : Nat) : List (Reg × Word) :=
  (List.range n).map fun k => (.key (Fin.ofNat 64 k), keyWord bytes k)

theorem storeInputs_keyWrites_succ (bytes : List Byte) (n : Nat) (b : Block) :
    storeInputs (keyWrites bytes (n + 1)) b =
      storeInput (keyWord bytes n) (storeInputs (keyWrites bytes n) b) (.key (Fin.ofNat 64 n)) := by
  simp [storeInputs, keyWrites, List.range_succ]

/-- The stores of key words change KEY alone: its first n words take the key's bytes, the rest stays. -/
theorem storeInputs_keyWrites (bytes : List Byte) (b : Block) {n : Nat} (hn : n ≤ 64) :
    ∃ key, storeInputs (keyWrites bytes n) b = { b with key := key } ∧
      ∀ i, byteAt key i = if i < 4 * n then (bytes.getD i 0).toNat else byteAt b.key i := by
  induction n with
  | zero => exact ⟨b.key, rfl, fun i => (if_neg (by omega)).symm⟩
  | succ n ih =>
    obtain ⟨key, hstore, hkey⟩ := ih (by omega)
    refine ⟨storeWord key n (keyWord bytes n), ?_, fun i => ?_⟩
    · rw [storeInputs_keyWrites_succ, hstore, storeInput, Fin.val_ofNat, Nat.mod_eq_of_lt (by omega)]
    · by_cases hi : i / 4 = n
      · rw [byteAt_storeWord _ _ _ (by omega), if_pos hi, if_pos (by omega), byteOfWord_keyWord _ _ (by omega),
          show 4 * n + i % 4 = i by omega]
      · rw [byteAt_storeWord_other _ _ hi, hkey]
        simp only [show i < 4 * (n + 1) ↔ i < 4 * n by omega]

/-- The stores of LOADKEY: the length, then the key's words. -/
def loadKeyWrites (bytes : List Byte) : List (Reg × Word) :=
  (.keylen, BitVec.ofNat 32 bytes.length) :: keyWrites bytes ((bytes.length + 3) / 4)

theorem loadKeyWrites_isInput (bytes : List Byte) : ∀ x ∈ loadKeyWrites bytes, isInput x.1 = true := by
  simp [loadKeyWrites, keyWrites, isInput]

/-- The transactions of LOADKEY are its stores, for every secret that fits the window. -/
theorem loadKey_transactions {bytes : List Byte} (h : bytes.length ≤ 256) :
    (Pseudo.loadKey bytes).expand.filterMap Stmt.transaction = storeEvents (loadKeyWrites bytes) := by
  simp only [Pseudo.expand, loadKeyWrites, storeEvents, keyWrites, List.filterMap_cons, Stmt.transaction,
    List.filterMap_map, List.map_cons, List.map_map, Function.comp_def, Place.offset, List.filterMap_eq_map']
  refine congrArg (List.cons _) (List.map_congr_left fun k hk => ?_)
  rw [List.mem_range] at hk
  rw [Reg.off, Fin.val_ofNat, Nat.mod_eq_of_lt (by omega)]

/-- LOADKEY in an idle block: KEYLEN takes the secret's length, the words the secret covers take its bytes, and no other
byte or register changes. -/
theorem storeInputs_loadKeyWrites {secret : List Byte} (h : secret.length ≤ 256) (b : Block) :
    ∃ key, storeInputs (loadKeyWrites secret) b =
        { b with keylen := BitVec.ofNat 16 secret.length, key := key } ∧
      ∀ i, byteAt key i =
        if i < 4 * ((secret.length + 3) / 4) then (secret.getD i 0).toNat else byteAt b.key i := by
  have hlen : (BitVec.ofNat 32 secret.length).extractLsb' 0 16 = BitVec.ofNat 16 secret.length := by
    apply BitVec.eq_of_toNat_eq
    simp
  rw [← hlen]
  exact storeInputs_keyWrites secret (storeInput _ b .keylen) (by omega)

/-- A block whose KEYLEN is a string's length and whose window begins with the string holds it as its key
(41_hmac.md R156). -/
theorem keyOf_eq {b : Block} {secret : List Byte} (h : secret.length ≤ 256) (hlen : keylenOf b = secret.length)
    (hkey : ∀ i, i < secret.length → byteAt b.key i = (secret.getD i 0).toNat) : keyOf b = secret := by
  apply List.ext_getElem
  · simp [keyOf, hlen, h]
  · intro i _ hi
    apply BitVec.eq_of_toNat_eq
    have hbyte := hkey i hi
    rw [byteAt_get _ (by omega)] at hbyte
    simpa [keyOf, hi] using hbyte

/-- Settles O50: the transactions are stores in input registers, and the stores are described byte by byte. -/
theorem loadKeyMakesTheSecretTheKey : Obligations.LoadKeyMakesTheSecretTheKey := by
  intro s secret hb hlen
  simp only [loadKey_transactions hlen, storeEvents_length]
  obtain ⟨t, hrun, hagenda, hblock⟩ := runsTo_storeInputs (s := s.withAgenda (storeEvents (loadKeyWrites secret)))
    (rest := []) (List.append_nil _).symm (loadKeyWrites_isInput secret) hb
  obtain ⟨key, hstore, hkey⟩ := storeInputs_loadKeyWrites hlen s.block
  have ht := hblock.trans hstore
  refine ⟨t, key, hrun, hagenda, ht, ?_, fun i hi => by rw [hkey, if_neg (by omega)]⟩
  rw [ht]
  refine keyOf_eq hlen ?_ fun i hi => ?_
  · simp only [keylenOf, BitVec.toNat_ofNat]
    omega
  · exact (hkey i).trans (if_pos (by omega))

end Sys2Proof.Machine

/-! ### CONV (40_counter_time.md R130, R131, R134) -/

namespace Sys2Proof.Machine

variable (lo hi : Word) (b : Block)

/-- The counter CONV writes: the quotient fits COUNTER, so both its halves together lose no bit (40_counter_time.md
R131). -/
theorem counterOf_convEffect : counterOf (convEffect b) = timeOf b / (periodOf b).toNat := by
  have hfits : timeOf b / (periodOf b).toNat < 2 ^ 64 :=
    Nat.lt_of_le_of_lt (Nat.div_le_self _ _) (BitVec.isLt _)
  have hhalves (x : BitVec 64) : x.extractLsb' 32 32 ++ x.extractLsb' 0 32 = x :=
    BitVec.extractLsb'_append_extractLsb' (w := 32) (len := 32)
  simp only [counterOf, convEffect]
  rw [hhalves, BitVec.toNat_ofNat, Nat.mod_eq_of_lt hfits]

/-- CONV reads PERIOD alone among the checked operands (60_exceptions.md R254). -/
theorem checks_conv_eq_zero_iff : checks .conv b = 0 ↔ 1 ≤ b.period.toInt := by
  rw [checks_eq_zero_iff]
  simp [readsPeriod, readsAlg, readsKey, readsDigits]

/-- Settles O28: a legal period passes CONV's checks and is the divisor, and COUNTER's halves are the quotient's. -/
theorem convWritesFloorQuotient : Obligations.ConvWritesFloorQuotient := by
  intro s hb hperiod
  refine ⟨(convEffect s.block).counterLo, (convEffect s.block).counterHi,
    exec_busy hb ((checks_conv_eq_zero_iff s.block).2 hperiod), ?_⟩
  rw [← twoWords_toNat, ← twoWords_toNat, ← periodOf_toNat hperiod]
  exact counterOf_convEffect s.block

/-! ### TIME outside CONV -/

/-- The block with another TIME. -/
def Block.withTime (b : Block) (lo hi : Word) : Block := { b with timeLo := lo, timeHi := hi }

theorem hmacEffect_withTime : hmacEffect (b.withTime lo hi) = (hmacEffect b).withTime lo hi := by
  unfold hmacEffect Block.withTime
  dsimp only
  split <;> rfl

theorem truncEffect_withTime : truncEffect (b.withTime lo hi) = (truncEffect b).withTime lo hi := by
  unfold truncEffect Block.withTime
  dsimp only
  split <;> rfl

theorem reduceEffect_withTime : reduceEffect (b.withTime lo hi) = (reduceEffect b).withTime lo hi := rfl

/-- No stage of HOTP looks at TIME. -/
theorem hotpEffect_withTime : hotpEffect (b.withTime lo hi) = (hotpEffect b).withTime lo hi := by
  rw [hotpEffect, hmacEffect_withTime, truncEffect_withTime, reduceEffect_withTime, hotpEffect]

/-- CONV sees TIME through the quotient alone. -/
theorem convEffect_withTime
    (h : timeOf b / (periodOf b).toNat = timeOf (b.withTime lo hi) / (periodOf b).toNat) :
    convEffect (b.withTime lo hi) = (convEffect b).withTime lo hi := by
  have hperiod : periodOf (b.withTime lo hi) = periodOf b := rfl
  simp only [convEffect, hperiod, ← h]
  rfl

/-- The commands that read TIME see its window alone (40_counter_time.md R134). -/
theorem effectOf_withTime {i : Instr} (hcommand : i = .conv ∨ i = .totp)
    (h : timeOf b / (periodOf b).toNat = timeOf (b.withTime lo hi) / (periodOf b).toNat) :
    effectOf i (b.withTime lo hi) = (effectOf i b).withTime lo hi := by
  rcases hcommand with rfl | rfl
  · exact convEffect_withTime lo hi b h
  · simp only [effectOf, totpEffect, convEffect_withTime lo hi b h, hotpEffect_withTime]

/-- Settles O36: the checks do not read TIME, and the effect of CONV and of TOTP commutes with a change of TIME inside its
window. -/
theorem equalTimeWindowsGiveEqualCodes : Obligations.EqualTimeWindowsGiveEqualCodes := by
  intro s t lo hi i hcommand hb hwindow hnext
  rcases exec_next hnext with ⟨hidle, -⟩ | ⟨-, hchecks, rfl⟩
  · simp [hb] at hidle
  · calc exec i (s.withBlock (s.block.withTime lo hi))
        = .next (s.withBlock (finish (effectOf i (s.block.withTime lo hi)))) := exec_busy hb hchecks
      _ = .next (s.withBlock ((finish (effectOf i s.block)).withTime lo hi)) := by
          rw [effectOf_withTime lo hi s.block hcommand hwindow]
          rfl

end Sys2Proof.Machine

/-! ### HMAC (41_hmac.md R150 to R157) -/

namespace Sys2Proof.Machine

variable {b : Block}

/-- A digest fits a block, so a hashed key is padded and never cut (41_hmac.md R151). -/
theorem digestLen_le_blockLen (alg : HashAlg) : digestLen alg ≤ blockLen alg := by
  cases alg <;> decide

@[simp] theorem zeros_length (n : Nat) : (zeros n).length = n := List.length_replicate

@[simp] theorem keyBlock_length (alg : HashAlg) (key : List Byte) : (keyBlock alg key).length = blockLen alg := by
  unfold keyBlock
  split
  · rw [List.length_append, hashBytes_length, zeros_length, Nat.add_sub_cancel' (digestLen_le_blockLen alg)]
  · rw [List.length_append, zeros_length]
    omega

/-- Settles O39: K0 is the definition's own case split, and both cases are padded to B bytes. -/
theorem keyBlockHasBlockLength : Obligations.KeyBlockHasBlockLength := by
  intro alg key
  refine ⟨rfl, ?_⟩
  rw [keyBlock_length]
  cases alg <;> rfl

/-- The exclusive or with a pad of the same length works on each byte alone (41_hmac.md R152). -/
theorem xorBytes_replicate {x : List Byte} {n : Nat} (c : Byte) (h : x.length = n) :
    xorBytes x (List.replicate n c) = x.map (· ^^^ c) := by
  subst h
  apply List.ext_getElem <;> simp [xorBytes]

/-- HMAC with each pad as one byte XORed onto every byte of the key block (41_hmac.md R152, R153). -/
theorem hmac_eq_nestedHash (alg : HashAlg) (key msg : List Byte) :
    hmac alg key msg = hashBytes alg ((keyBlock alg key).map (· ^^^ 0x5C) ++
      hashBytes alg ((keyBlock alg key).map (· ^^^ 0x36) ++ msg)) := by
  rw [hmac, opad, ipad, xorBytes_replicate _ (keyBlock_length alg key), xorBytes_replicate _ (keyBlock_length alg key)]

@[simp] theorem messageOf_length (b : Block) : (messageOf b).length = 8 := beBytes_length 8 _

/-- Settles O40: the pads keep the key block's length, and the message has 8 bytes. -/
theorem hmacIsTheNestedHash : Obligations.HmacIsTheNestedHash := by
  intro alg key b
  exact ⟨hmac_eq_nestedHash alg key _, hashBytes_length alg _, by simp, by simp⟩

/-- Zero bytes at the end of a key that fits the block are the zero bytes of its padding (41_hmac.md R151). -/
theorem keyBlock_append_zeros {alg : HashAlg} {key : List Byte} {n : Nat} (h : key.length + n ≤ blockLen alg) :
    keyBlock alg (key ++ zeros n) = keyBlock alg key := by
  have hlen : (key ++ zeros n).length = key.length + n := by simp
  rw [keyBlock, keyBlock, if_neg (by omega), if_neg (by omega), hlen, List.append_assoc, zeros, zeros, zeros,
    List.replicate_append_replicate, show n + (blockLen alg - (key.length + n)) = blockLen alg - key.length by omega]

/-- Settles O42: HMAC sees the key through its block, and the block of n zero bytes is the empty key's. -/
theorem zeroBytesKeyActsAsEmptyKey : Obligations.ZeroBytesKeyActsAsEmptyKey := by
  intro alg n msg h
  have hblock : keyBlock alg (zeros n) = keyBlock alg [] := keyBlock_append_zeros (key := []) (by simpa using h)
  change hmac alg (zeros n) msg = hmac alg [] msg
  rw [hmac, hmac, hblock]

/-- HMAC reads ALG and KEYLEN alone among the checked operands (60_exceptions.md R254). -/
theorem checks_hmac_eq_zero_iff : checks .hmac b = 0 ↔ b.ctrl.alg ≠ 3 ∧ b.keylen.toNat ≤ 256 := by
  rw [checks_eq_zero_iff]
  simp [readsPeriod, readsAlg, readsKey, readsDigits]

/-- Settles O29: legal operands pass HMAC's checks, and the window HMAC writes holds the digest zero-filled. -/
theorem hmacWritesDigest : Obligations.HmacWritesDigest := by
  intro s alg hb halg hlen
  have hchecks : checks .hmac s.block = 0 := checks_hmac_eq_zero_iff.2 ⟨alg_ne_reserved halg, hlen⟩
  refine ⟨digestWindow alg (hmac alg (keyOf s.block) (messageOf s.block)), ?_, digestWindow_holds alg _⟩
  rw [exec_busy hb hchecks, effectOf, hmacEffect_of_alg s.block halg]
  rfl

/-! ### KEY above KEYLEN (41_hmac.md R156) -/

variable {k : Vector Byte 256}

/-- HMAC sees KEY through its first KEYLEN bytes alone. -/
theorem hmacEffect_withKey (h : keyOf (b.withKey k) = keyOf b) :
    hmacEffect (b.withKey k) = (hmacEffect b).withKey k := by
  cases halg : hashAlgOf b.ctrl.alg with
  | none => simp only [hmacEffect, Block.withKey, halg]
  | some alg =>
    rw [hmacEffect_of_alg (b.withKey k) halg, hmacEffect_of_alg b halg, h]
    rfl

theorem truncEffect_withKey : truncEffect (b.withKey k) = (truncEffect b).withKey k := by
  unfold truncEffect Block.withKey
  dsimp only
  split <;> rfl

theorem reduceEffect_withKey : reduceEffect (b.withKey k) = (reduceEffect b).withKey k := rfl

theorem convEffect_withKey : convEffect (b.withKey k) = (convEffect b).withKey k := rfl

/-- Of HOTP's stages HMAC alone looks at KEY. -/
theorem hotpEffect_withKey (h : keyOf (b.withKey k) = keyOf b) :
    hotpEffect (b.withKey k) = (hotpEffect b).withKey k := by
  rw [hotpEffect, hmacEffect_withKey h, truncEffect_withKey, reduceEffect_withKey, hotpEffect]

/-- The commands that read KEY see its first KEYLEN bytes alone. -/
theorem effectOf_withKey {i : Instr} (hcommand : i = .hmac ∨ i = .hotp ∨ i = .totp)
    (h : keyOf (b.withKey k) = keyOf b) : effectOf i (b.withKey k) = (effectOf i b).withKey k := by
  rcases hcommand with rfl | rfl | rfl
  · exact hmacEffect_withKey h
  · exact hotpEffect_withKey h
  · simp only [effectOf, totpEffect, convEffect_withKey]
    exact hotpEffect_withKey h

/-- ZEROIZE alone writes KEY (45_composite_and_key.md R236). -/
theorem effectOf_key {i : Instr} (h : i ≠ .zeroize) : (effectOf i b).key = b.key := by
  cases i with
  | zeroize => exact absurd rfl h
  | reduce => rfl
  | conv => rfl
  | hmac => exact hmacEffect_key b
  | trunc => exact truncEffect_key b
  | hotp => exact hotpEffect_key b
  | totp => exact totpEffect_key b

/-- Settles O41: the checks do not read KEY, and the effect of each of the three commands keeps KEY and commutes with a
change of its bytes above KEYLEN. -/
theorem keyBytesAboveLengthDoNotMatter : Obligations.KeyBytesAboveLengthDoNotMatter := by
  intro i s t k hcommand hb hkey hnext
  rcases exec_next hnext with ⟨hidle, -⟩ | ⟨-, hchecks, rfl⟩
  · simp [hb] at hidle
  · have hkeyOf : keyOf (s.block.withKey k) = keyOf s.block := hkey
    refine ⟨(finish_key _).trans (effectOf_key (by rcases hcommand with rfl | rfl | rfl <;> decide)), ?_⟩
    calc exec i (s.withKey k)
        = .next ((s.withKey k).withBlock (finish (effectOf i (s.block.withKey k)))) :=
          exec_busy (s := s.withKey k) hb hchecks
      _ = .next ((s.withBlock (finish (effectOf i s.block))).withKey k) := by
          rw [effectOf_withKey hcommand hkeyOf]
          rfl

end Sys2Proof.Machine

/-! ### Padding (42_sha_functions.md R171, R172) -/

namespace Sys2Proof.Machine

theorem padMessage_length (block lenBytes : Nat) (m : List Byte) :
    (padMessage block lenBytes m).length = m.length + 1 + padZeros block lenBytes m.length + lenBytes := by
  simp only [padMessage, List.length_append, List.length_singleton, List.length_replicate, beBytes_length]

/-- The rule of both paddings: `padZeros` zero bytes fill whole blocks, and no smaller number does. -/
theorem padMessage_spec {block : Nat} (hb : 0 < block) (lenBytes : Nat) (m : List Byte) :
    ∃ k, padMessage block lenBytes m = m ++ [0x80] ++ List.replicate k 0 ++ beBytes lenBytes (8 * m.length) ∧
      (m.length + 1 + k + lenBytes) % block = 0 ∧
      (∀ j, (m.length + 1 + j + lenBytes) % block = 0 → k ≤ j) ∧
      (padMessage block lenBytes m).length % block = 0 := by
  have hfills := padZeros_fills hb lenBytes m.length
  refine ⟨padZeros block lenBytes m.length, rfl, hfills, fun j hj => padZeros_least hb hj, ?_⟩
  rw [padMessage_length]
  exact hfills

/-- Settles O43: the two paddings are `padMessage` with blocks of 64 and of 128 bytes. -/
theorem paddingFillsWholeBlocksWithLeastZeros : Obligations.PaddingFillsWholeBlocksWithLeastZeros :=
  fun m => ⟨padMessage_spec (by decide) 8 m, padMessage_spec (by decide) 16 m⟩

/-! ### Message schedules (42_sha_functions.md R176, R180, R184) -/

/-- The recurrence that SHA-256 and SHA-512 share, for any word size and any sigma functions. -/
theorem sha2Schedule_spec {w : Nat} (sigma0 sigma1 : BitVec w → BitVec w) (n : Nat) {m : List (BitVec w)}
    (hm : m.length = 16) :
    let W := fun t => (schedule (sha2Next sigma0 sigma1) n m).getD t 0
    (schedule (sha2Next sigma0 sigma1) n m).length = 16 + n ∧ (∀ t, t < 16 → W t = m.getD t 0) ∧
      ∀ t, 16 ≤ t → t < 16 + n →
        W t = sigma1 (W (t - 2)) + W (t - 7) + sigma0 (W (t - 15)) + W (t - 16) := by
  obtain ⟨hlength, hfirst, hlater⟩ := schedule_spec (sha2Next sigma0 sigma1) n hm
  refine ⟨hlength, hfirst, fun t h16 ht => ?_⟩
  obtain ⟨ws, hnext, hback⟩ := hlater t h16 ht
  rw [sha2Next, hback 2 (by decide) (by decide), hback 7 (by decide) (by decide),
    hback 15 (by decide) (by decide), hback 16 (by decide) (by decide)] at hnext
  exact hnext

theorem sha1Schedule_spec {m : List (BitVec 32)} (hm : m.length = 16) :
    let W := fun t => (sha1Schedule m).getD t 0
    (sha1Schedule m).length = 80 ∧ (∀ t, t < 16 → W t = m.getD t 0) ∧
      ∀ t, 16 ≤ t → t < 80 → W t = rotl 1 (W (t - 3) ^^^ W (t - 8) ^^^ W (t - 14) ^^^ W (t - 16)) := by
  obtain ⟨hlength, hfirst, hlater⟩ := schedule_spec
    (fun ws => rotl 1 (wordBack ws 3 ^^^ wordBack ws 8 ^^^ wordBack ws 14 ^^^ wordBack ws 16)) 64 hm
  refine ⟨hlength, hfirst, fun t h16 ht => ?_⟩
  obtain ⟨ws, hnext, hback⟩ := hlater t h16 ht
  rw [hback 3 (by decide) (by decide), hback 8 (by decide) (by decide),
    hback 14 (by decide) (by decide), hback 16 (by decide) (by decide)] at hnext
  exact hnext

/-- Settles O44: `schedule_spec` says that a later word is `next` of the words before it; each hash puts its own rule for
`next`. -/
theorem schedulesSatisfyTheirRecurrences : Obligations.SchedulesSatisfyTheirRecurrences :=
  ⟨fun _ hm => sha1Schedule_spec hm, fun _ hm => sha2Schedule_spec sha256Sigma0 sha256Sigma1 48 hm,
    fun _ hm => sha2Schedule_spec sha512Sigma0 sha512Sigma1 64 hm⟩

end Sys2Proof.Machine

/-! ### TRUNC (43_truncation.md R200 to R204) -/

namespace Sys2Proof.Machine

variable {b : Block} {alg : HashAlg} {len : Nat} {v v' : Vector Byte 64} {off off' : BitVec 4} {bin bin' : Word}

/-- A next state of the busy block is the command's completion. -/
theorem exec_next_busy {i : Instr} {s t : State} (h : exec i s = .next t) (hb : s.block.status.busy = true) :
    t.block = finish (effectOf i s.block) := by
  rcases exec_next h with ⟨hidle, -⟩ | ⟨-, -, rfl⟩
  · simp [hb] at hidle
  · rfl

/-- Settles O45: an offset is at most 15, and the shortest digest has 20 bytes. -/
theorem truncationWindowInsideDigest : Obligations.TruncationWindowInsideDigest := by
  intro alg off
  have hoff : off.toNat < 16 := off.isLt
  have hlen : 20 ≤ digestLen alg := by cases alg <;> decide
  omega

/-- A window of three whole bytes and a masked one is a 31-bit value (43_truncation.md R202). -/
theorem Truncates.binary_le (h : Truncates len v off bin) : bin.toNat ≤ 0x7FFFFFFF := by
  obtain ⟨-, hbin⟩ := h
  have h0 : byteAt v off.toNat % 128 < 128 := Nat.mod_lt _ (by decide)
  have h1 := byteAt_lt v (off.toNat + 1)
  have h2 := byteAt_lt v (off.toNat + 2)
  have h3 := byteAt_lt v (off.toNat + 3)
  omega

/-- A digest has one truncation. -/
theorem Truncates.unique (h : Truncates len v off bin) (h' : Truncates len v off' bin') : off' = off ∧ bin' = bin := by
  obtain ⟨hoff, hbin⟩ := h
  obtain ⟨hoff', hbin'⟩ := h'
  obtain rfl : off' = off := BitVec.eq_of_toNat_eq (hoff'.trans hoff.symm)
  exact ⟨rfl, BitVec.eq_of_toNat_eq (hbin'.trans hbin.symm)⟩

/-- Windows with the same first L bytes have the same truncation, since it reads no byte above them (43_truncation.md R203,
R204). -/
theorem Truncates.congr (h : Truncates (digestLen alg) v off bin)
    (hbytes : ∀ i, i < digestLen alg → byteAt v i = byteAt v' i) : Truncates (digestLen alg) v' off bin := by
  obtain ⟨hoff, hbin⟩ := h
  obtain ⟨hinside, -⟩ := truncationWindowInsideDigest alg off
  rw [hbytes _ (by omega)] at hoff
  rw [hbytes _ (by omega), hbytes _ (by omega), hbytes _ (by omega), hbytes _ hinside] at hbin
  exact ⟨hoff, hbin⟩

/-- TRUNC's effect is the truncation of DIGEST (43_truncation.md R201, R202). -/
theorem truncEffect_truncates (halg : hashAlgOf b.ctrl.alg = some alg) :
    Truncates (digestLen alg) b.digest (truncEffect b).offset (truncEffect b).binary := by
  rw [truncEffect_of_alg b halg]
  refine ⟨truncOffset_toNat alg b, ?_⟩
  rw [truncWindow, fourBytes_toNat, clearTopBit_toNat]
  rfl

/-- TRUNC reads ALG alone among the checked operands (60_exceptions.md R254). -/
theorem checks_trunc_eq_zero_iff : checks .trunc b = 0 ↔ b.ctrl.alg ≠ 3 := by
  rw [checks_eq_zero_iff]
  simp [readsPeriod, readsAlg, readsKey, readsDigits]

/-- Settles O30: a supported algorithm passes TRUNC's check, and the effect is the truncation of DIGEST. -/
theorem truncExtractsMaskedWindow : Obligations.TruncExtractsMaskedWindow := by
  intro s alg hb halg
  have hchecks : checks .trunc s.block = 0 := checks_trunc_eq_zero_iff.2 (alg_ne_reserved halg)
  have htruncates := truncEffect_truncates halg
  refine ⟨(truncEffect s.block).offset, (truncEffect s.block).binary, ?_, htruncates, htruncates.binary_le⟩
  rw [exec_busy hb hchecks, effectOf, truncEffect_frame]
  rfl

/-- Settles O46: equal algorithms and digest bytes have one truncation; and TRUNC after HMAC is HOTP's second stage, which
REDUCE keeps, because TRUNC does not see what HMAC's completion wrote to STATUS and PEND_OP. -/
theorem truncDependsOnAlgAndDigestAlone : Obligations.TruncDependsOnAlgAndDigestAlone := by
  constructor
  · intro s s' t t' alg hb hb' halg hsame hbytes hnext hnext'
    rw [exec_next_busy hnext hb, exec_next_busy hnext' hb']
    have hs := truncEffect_truncates halg
    have hs' := truncEffect_truncates (b := s'.block) (hsame ▸ halg)
    exact hs.unique (hs'.congr hbytes)
  · intro s h t p hb hhmac hhotp htrunc
    rw [exec_next_busy hhotp hb, exec_next_busy htrunc hb, exec_next_busy hhmac hb]
    have hstage : truncEffect { finish (hmacEffect s.block) with status := s.block.status } =
        (truncEffect (hmacEffect s.block)).withControl s.block.status (hmacEffect s.block).errInfo 0 :=
      truncEffect_withControl s.block.status (hmacEffect s.block).errInfo 0 (hmacEffect s.block)
    rw [effectOf, effectOf, hstage]
    exact ⟨rfl, rfl⟩

end Sys2Proof.Machine

/-! ### REDUCE (44_decimal_reduction.md R215 to R221) -/

namespace Sys2Proof.Machine

variable {code d i : Nat} {b : Block}

/-- A code below 10^d has no digit from d up (44_decimal_reduction.md R217). -/
theorem digit_eq_zero (hcode : code < 10 ^ d) (hi : d ≤ i) : code / 10 ^ i % 10 = 0 := by
  have hlt : code < 10 ^ i := Nat.lt_of_lt_of_le hcode (Nat.pow_le_pow_right (by decide) hi)
  rw [Nat.div_eq_of_lt hlt]

/-- A digit of CODE_BCD_LO (10_state.md R41). -/
theorem bcdLow_nibble (code : Nat) (hi : i < 8) :
    ((bcdLow code).extractLsb' (4 * i) 4).toNat = code / 10 ^ i % 10 := by
  rw [bcdLow, nibble_of_eight _ _ _ _ _ _ _ _ hi]
  interval_cases i <;> exact digitNibble_toNat code _

/-- A digit of CODE_BCD_HI (10_state.md R41). -/
theorem bcdHigh_nibble (code : Nat) (hi : i < 2) :
    ((bcdHigh code).extractLsb' (4 * i) 4).toNat = code / 10 ^ (8 + i) % 10 := by
  rw [bcdHigh, nibble_of_two _ _ hi]
  interval_cases i <;> exact digitNibble_toNat code _

/-- A digit of the 40-bit value {CODE_BCD_HI, CODE_BCD_LO} (44_decimal_reduction.md R217). -/
theorem bcd_nibble (code : Nat) (hi : i < 10) :
    ((bcdHigh code ++ bcdLow code).extractLsb' (4 * i) 4).toNat = code / 10 ^ i % 10 := by
  by_cases hlow : i < 8
  · rw [BitVec.extractLsb'_append_eq_of_add_le (by omega), bcdLow_nibble code hlow]
  · rw [BitVec.extractLsb'_append_eq_of_le (by omega), show 4 * i - 32 = 4 * (i - 8) by omega,
      bcdHigh_nibble code (by omega), show 8 + (i - 8) = i by omega]

/-- Settles O47: nibble i is digit i of the code, and ten digits sum to the whole of a code below 10^10. -/
theorem bcdNibblesAreTheCodeInDecimal : Obligations.BcdNibblesAreTheCodeInDecimal := by
  intro code d _ hd hcode nibble
  have hnibble : ∀ i, i < 10 → nibble i = code / 10 ^ i % 10 := fun i hi => bcd_nibble code hi
  refine ⟨fun i hi => ?_, fun i hdi hi => ?_, ?_⟩
  · rw [hnibble i hi]
    omega
  · rw [hnibble i hi, digit_eq_zero hcode hdi]
  · calc ((List.range 10).map fun i => nibble i * 10 ^ i).sum
        = ((List.range 10).map fun i => code / 10 ^ i % 10 * 10 ^ i).sum := by
          refine congrArg List.sum (List.map_congr_left fun i hi => ?_)
          rw [hnibble i (List.mem_range.1 hi)]
      _ = code % 10 ^ 10 := sum_of_digits code 10
      _ = code := Nat.mod_eq_of_lt (Nat.lt_of_lt_of_le hcode (Nat.pow_le_pow_right (by decide) hd))

/-- Settles O48: character j is digit d-1-j, so the string is the code's first d digits from the other end. -/
theorem asciiStringIsTheZeroPaddedNumeral : Obligations.AsciiStringIsTheZeroPaddedNumeral := by
  intro code d _ hd hcode char
  have hdigit : ∀ j, j < d → char j = 0x30 + code / 10 ^ (d - 1 - j) % 10 := fun j hj =>
    (byteAt_asciiWindow code d (by omega)).trans (if_pos hj)
  refine ⟨fun j hj => ?_, fun j hdj hj => ?_, ?_⟩
  · rw [hdigit j hj]
    omega
  · exact (byteAt_asciiWindow code d hj).trans (if_neg (by omega))
  · calc ((List.range d).map fun j => (char j - 0x30) * 10 ^ (d - 1 - j)).sum
        = ((List.range d).map fun j => code / 10 ^ (d - 1 - j) % 10 * 10 ^ (d - 1 - j)).sum := by
          refine congrArg List.sum (List.map_congr_left fun j hj => ?_)
          rw [hdigit j (List.mem_range.1 hj), Nat.add_sub_cancel_left]
      _ = ((List.range d).map fun i => code / 10 ^ i % 10 * 10 ^ i).sum :=
          Finset.sum_range_reflect (fun i => code / 10 ^ i % 10 * 10 ^ i) d
      _ = code % 10 ^ d := sum_of_digits code d
      _ = code := Nat.mod_eq_of_lt hcode

/-- A code of d digits is below 10^d. -/
theorem codeValue_lt (binary d : Nat) : codeValue binary d < 10 ^ d := Nat.mod_lt _ (Nat.pow_pos (by decide))

/-- A binary below 10^d is its own code (44_decimal_reduction.md R215). -/
theorem codeValue_of_lt {binary : Nat} (h : binary < 10 ^ d) : codeValue binary d = binary := Nat.mod_eq_of_lt h

/-- Settles O49: 2^31 is below 10^10 and below 3 * 10^9, and 10^9 is below 2^31. -/
theorem tenDigitCodeIsTheWholeBinary : Obligations.TenDigitCodeIsTheWholeBinary := by
  refine ⟨fun binary hbinary => ?_, fun code hcode => ⟨code, by omega, codeValue_of_lt (by omega)⟩,
    fun binary => Nat.le_pred_of_lt (codeValue_lt binary 9)⟩
  have hself : codeValue binary 10 = binary := codeValue_of_lt (by omega)
  have hfirst : byteAt (asciiWindow binary 10) 0 = 0x30 + binary / 10 ^ 9 % 10 :=
    byteAt_asciiWindow binary 10 (by decide)
  rw [hself, hfirst]
  exact ⟨rfl, by omega, by omega⟩

/-- REDUCE's effect: the code registers show BINARY mod 10^DIGITS (44_decimal_reduction.md R215, R221). -/
theorem reduceEffect_showsCode (b : Block) : ShowsCode (binaryOf b) (digitsOf b) (reduceEffect b) :=
  ⟨reduceEffect_code_toNat b, fun _ hi => bcdLow_nibble _ hi, fun _ hi => bcdHigh_nibble _ hi,
    fun _ hj => byteAt_asciiWindow _ _ hj⟩

/-- REDUCE reads DIGITS alone among the checked operands (60_exceptions.md R254). -/
theorem checks_reduce_eq_zero_iff :
    checks .reduce b = 0 ↔ 6 ≤ b.ctrl.digits.toNat ∧ b.ctrl.digits.toNat ≤ 10 := by
  rw [checks_eq_zero_iff]
  simp [readsPeriod, readsAlg, readsKey, readsDigits]

/-- Settles O31: a legal DIGITS passes REDUCE's check, and the effect shows the code of BINARY. -/
theorem reduceWritesCode : Obligations.ReduceWritesCode := by
  intro s hb h6 h10
  have hchecks : checks .reduce s.block = 0 := checks_reduce_eq_zero_iff.2 ⟨h6, h10⟩
  exact ⟨(reduceEffect s.block).code, (reduceEffect s.block).bcdLo, (reduceEffect s.block).bcdHi,
    (reduceEffect s.block).ascii, exec_busy hb hchecks, reduceEffect_showsCode s.block⟩

end Sys2Proof.Machine

/-! ### HOTP, TOTP and ZEROIZE (45_composite_and_key.md R230 to R232) -/

namespace Sys2Proof.Machine

variable {alg : HashAlg} (b : Block)

/-- HOTP writes DIGEST, OFFSET, BINARY and the code registers alone (45_composite_and_key.md R230). -/
theorem hotpEffect_frame :
    hotpEffect b = { b with
      digest := (hotpEffect b).digest
      offset := (hotpEffect b).offset
      binary := (hotpEffect b).binary
      code := (hotpEffect b).code
      bcdLo := (hotpEffect b).bcdLo
      bcdHi := (hotpEffect b).bcdHi
      ascii := (hotpEffect b).ascii } := by
  rw [hotpEffect, truncEffect_frame, hmacEffect_frame]
  rfl

/-- HOTP's three stages, each on the outputs of the one before (45_composite_and_key.md R230, R233). -/
theorem hotpEffect_stages (halg : hashAlgOf b.ctrl.alg = some alg) :
    HoldsDigest alg (hmac alg (keyOf b) (messageOf b)) (hotpEffect b).digest ∧
      Truncates (digestLen alg) (hotpEffect b).digest (hotpEffect b).offset (hotpEffect b).binary ∧
      ShowsCode (binaryOf (hotpEffect b)) (digitsOf b) (hotpEffect b) := by
  have hmacDigest : (hotpEffect b).digest = (hmacEffect b).digest := truncEffect_digest (hmacEffect b)
  have hdigits : digitsOf (truncEffect (hmacEffect b)) = digitsOf b := by simp [digitsOf]
  refine ⟨?_, ?_, ?_⟩
  · rw [hmacDigest, hmacEffect_of_alg b halg]
    exact digestWindow_holds alg _
  · rw [hmacDigest]
    exact truncEffect_truncates (b := hmacEffect b) (by rwa [hmacEffect_ctrl])
  · rw [← hdigits]
    exact reduceEffect_showsCode (truncEffect (hmacEffect b))

/-- HOTP reads ALG, KEYLEN and DIGITS among the checked operands (60_exceptions.md R254). -/
theorem checks_hotp_eq_zero_iff :
    checks .hotp b = 0 ↔
      b.ctrl.alg ≠ 3 ∧ b.keylen.toNat ≤ 256 ∧ 6 ≤ b.ctrl.digits.toNat ∧ b.ctrl.digits.toNat ≤ 10 := by
  rw [checks_eq_zero_iff]
  simp [readsPeriod, readsAlg, readsKey, readsDigits]

/-- TOTP reads what CONV and HOTP read (60_exceptions.md R254). -/
theorem checks_totp_eq_zero_iff : checks .totp b = 0 ↔ checks .conv b = 0 ∧ checks .hotp b = 0 := by
  rw [checks_conv_eq_zero_iff, checks_hotp_eq_zero_iff, checks_eq_zero_iff]
  simp [readsPeriod, readsAlg, readsKey, readsDigits]

/-- Settles O32: legal operands pass HOTP's checks, and the effect's three stages are HMAC's, TRUNC's and REDUCE's. -/
theorem hotpRunsItsThreeStages : Obligations.HotpRunsItsThreeStages := by
  intro s alg hb halg hlen h6 h10
  have hchecks := (checks_hotp_eq_zero_iff s.block).2 ⟨alg_ne_reserved halg, hlen, h6, h10⟩
  obtain ⟨hdigest, htruncates, hcode⟩ := hotpEffect_stages s.block halg
  refine ⟨_, _, _, _, _, _, _, ?_, hdigest, htruncates, hcode⟩
  rw [exec_busy hb hchecks, effectOf, hotpEffect_frame]
  rfl

/-- Settles O33: the last three stages are HOTP's on the COUNTER that CONV wrote, the floor quotient. -/
theorem totpRunsItsFourStages : Obligations.TotpRunsItsFourStages := by
  intro s alg hb hperiod halg hlen h6 h10
  have hchecks := (checks_totp_eq_zero_iff s.block).2 ⟨(checks_conv_eq_zero_iff _).2 hperiod,
    (checks_hotp_eq_zero_iff _).2 ⟨alg_ne_reserved halg, hlen, h6, h10⟩⟩
  obtain ⟨hdigest, htruncates, hcode⟩ := hotpEffect_stages (convEffect s.block) halg
  have hquotient := counterOf_convEffect s.block
  rw [counterOf, timeOf, twoWords_toNat, twoWords_toNat, periodOf_toNat hperiod] at hquotient
  refine ⟨_, _, _, _, _, _, _, _, _, ?_, hquotient, hdigest, htruncates, hcode⟩
  rw [exec_busy hb hchecks, effectOf, totpEffect, hotpEffect_frame]
  rfl

/-- ZEROIZE has no operand to check (60_exceptions.md R254). -/
theorem checks_zeroize : checks .zeroize b = 0 := by
  rw [checks_eq_zero_iff]
  simp [readsPeriod, readsAlg, readsKey, readsDigits]

/-- Settles O34: no check fails, and every byte of the window ZEROIZE writes is 0x00. -/
theorem zeroizeClearsKeyAndLength : Obligations.ZeroizeClearsKeyAndLength := by
  intro s
  have hchecks := checks_zeroize s.block
  constructor
  · intro hb
    have haccepted : issue .zeroize s.block = accept 7 s.block := if_pos hchecks
    exact ⟨_, exec_idle hb, by simp [haccepted], by simp [haccepted]⟩
  · intro hb
    exact ⟨Vector.replicate 256 0x00, exec_busy hb hchecks, fun i _ => byteAt_replicate_zero 256 i⟩

end Sys2Proof.Machine

/-! ### The frame of a command (45_composite_and_key.md R236, 30_encoding.md R104) -/

namespace Sys2Proof.Machine

variable (b : Block)

/-- `c` is `b` in every register that R104 does not list for command `i`, but for STATUS, ERRINFO and PEND_OP. -/
def Block.keptBy (i : Instr) (b c : Block) : Prop :=
  b.sameSettings c ∧
    (i ≠ .zeroize → c.key = b.key ∧ c.keylen = b.keylen) ∧
    (i ≠ .conv → i ≠ .totp → c.counterLo = b.counterLo ∧ c.counterHi = b.counterHi) ∧
    (i ≠ .hmac → i ≠ .hotp → i ≠ .totp → c.digest = b.digest) ∧
    (i ≠ .trunc → i ≠ .hotp → i ≠ .totp → c.offset = b.offset ∧ c.binary = b.binary) ∧
    (i ≠ .reduce → i ≠ .hotp → i ≠ .totp →
      c.code = b.code ∧ c.bcdLo = b.bcdLo ∧ c.bcdHi = b.bcdHi ∧ c.ascii = b.ascii)

/-- A command's acceptance and rejection write STATUS, ERRINFO and PEND_OP alone. -/
theorem issue_keptBy (i : Instr) : b.keptBy i (issue i b) := by
  rcases issue_cases i b with ⟨-, h⟩ | ⟨-, h⟩ <;> rw [h] <;> simp [Block.keptBy, Block.sameSettings]

/-- A command's effect writes its own registers alone. -/
theorem effectOf_keptBy (i : Instr) : b.keptBy i (effectOf i b) := by
  cases i <;> simp [Block.keptBy, Block.sameSettings, effectOf]

/-- Settles O35: the issue changes no register that R104 lists, the completion those of its command's effect. -/
theorem commandsChangeOnlyTheirRegisters : Obligations.CommandsChangeOnlyTheirRegisters := by
  intro i s t h
  obtain ⟨hagenda, hreadData⟩ := exec_port h
  have hblock : s.block.keptBy i t.block ∧ t.block.status.overrun = s.block.status.overrun ∧
      (s.block.status.busy = true → t.block.errInfo = s.block.errInfo ∧ t.block.status.err = s.block.status.err) := by
    rcases exec_next h with ⟨hb, rfl⟩ | ⟨hb, -, rfl⟩
    · refine ⟨issue_keptBy s.block i, ?_, by simp [hb]⟩
      rcases issue_cases i s.block with ⟨-, hissue⟩ | ⟨-, hissue⟩ <;> simp [hissue]
    · exact ⟨effectOf_keptBy s.block i, by simp, by simp⟩
  obtain ⟨⟨hsettings, hkey, hcounter, hdigest, htrunc, hcode⟩, hoverrun, herr⟩ := hblock
  exact ⟨hagenda, hreadData, hoverrun, hsettings, hkey, hcounter, hdigest, htrunc, hcode, herr⟩

end Sys2Proof.Machine

/-! ### Commands issued one after another (45_composite_and_key.md R233) -/

namespace Sys2Proof.Machine

variable (b : Block)

theorem hotpEffect_withControl (x : Status) (e : ErrInfo) (p : BitVec 4) :
    hotpEffect (b.withControl x e p) = (hotpEffect b).withControl x e p := by
  rw [hotpEffect, hmacEffect_withControl, truncEffect_withControl, reduceEffect_withControl, hotpEffect]

/-- No command's effect looks at STATUS, ERRINFO or PEND_OP. -/
theorem effectOf_withControl (i : Instr) (x : Status) (e : ErrInfo) (p : BitVec 4) :
    effectOf i (b.withControl x e p) = (effectOf i b).withControl x e p := by
  cases i with
  | conv => rfl
  | reduce => rfl
  | zeroize => rfl
  | hmac => exact hmacEffect_withControl x e p b
  | trunc => exact truncEffect_withControl x e p b
  | hotp => exact hotpEffect_withControl b x e p
  | totp => exact hotpEffect_withControl (convEffect b) x e p

/-- The block after a command has been accepted and completed. -/
def afterCommand (b : Block) (i : Instr) : Block := finish (effectOf i (accept (opcode i) b))

/-- A completed command leaves its effect, DONE, and its name in ERRINFO. -/
theorem afterCommand_eq (i : Instr) :
    afterCommand b i = (effectOf i b).withControl { b.status with done := true, busy := false }
      { op := opcode i, cause := 0, code := codeNone } 0 := by
  rw [afterCommand, accept_eq_withControl, effectOf_withControl]
  simp [finish_eq_withControl, Block.withControl]

/-- A command's checks read CTRL, PERIOD and KEYLEN (60_exceptions.md R252, R254). -/
theorem checks_congr {b c : Block} (i : Instr) (hctrl : b.ctrl = c.ctrl) (hperiod : b.period = c.period)
    (hkeylen : b.keylen = c.keylen) : checks i b = checks i c := by
  simp only [checks, badDigits, badKeylen, badAlg, badPeriod, digitsOf, keylenOf, periodOf, hctrl, hperiod, hkeylen]
  rfl

/-- A completed command but ZEROIZE keeps the operands that checks read. -/
theorem checks_afterCommand {i : Instr} (h : i ≠ .zeroize) (j : Instr) : checks j (afterCommand b i) = checks j b := by
  obtain ⟨⟨hctrl, hperiod, -⟩, hkey, -⟩ := effectOf_keptBy b i
  obtain ⟨-, hkeylen⟩ := hkey h
  rw [afterCommand_eq]
  exact checks_congr j hctrl.symm hperiod.symm hkeylen

/-- The events of commands issued one after another, each completed at once. -/
def commandEvents (is : List Instr) : List Event := is.flatMap fun i => [commandEvent i, .engine]

/-- Commands other than ZEROIZE whose checks pass at the start complete one after another: none of them changes an
operand that a later check reads. -/
theorem runsTo_commands {i : Instr} {is : List Instr} {s : State} (hagenda : s.agenda = commandEvents (i :: is))
    (hb : s.block.status.busy = false) (hchecks : ∀ j ∈ i :: is, j ≠ .zeroize ∧ checks j s.block = 0) :
    RunsTo (2 * (is.length + 1)) s
      { block := (i :: is).foldl afterCommand s.block, agenda := [], readData := none } := by
  induction is generalizing i s with
  | nil => exact runsTo_command hagenda hb (hchecks i (by simp)).2
  | cons j is ih =>
    obtain ⟨hi, hi0⟩ := hchecks i (by simp)
    have hlater : ∀ k ∈ j :: is, k ≠ .zeroize ∧ checks k (afterCommand s.block i) = 0 := fun k hk => by
      obtain ⟨hk, hk0⟩ := hchecks k (List.mem_cons_of_mem i hk)
      exact ⟨hk, (checks_afterCommand s.block hi k).trans hk0⟩
    have hrun := ih (s := ⟨afterCommand s.block i, commandEvents (j :: is), none⟩) rfl rfl hlater
    rw [List.length_cons, Nat.mul_succ, Nat.add_comm]
    exact runsTo_add (runsTo_command hagenda hb hi0) hrun

/-- HOTP and its stages end in the same registers, ERRINFO excepted. -/
theorem afterCommand_hotp : afterCommand b .hotp =
    { [Instr.hmac, .trunc, .reduce].foldl afterCommand b with errInfo := (afterCommand b .hotp).errInfo } := by
  simp only [List.foldl_cons, List.foldl_nil, afterCommand_eq, effectOf_withControl, withControl_twice]
  rfl

/-- TOTP and its stages end in the same registers, ERRINFO excepted. -/
theorem afterCommand_totp : afterCommand b .totp =
    { [Instr.conv, .hmac, .trunc, .reduce].foldl afterCommand b with errInfo := (afterCommand b .totp).errInfo } := by
  simp only [List.foldl_cons, List.foldl_nil, afterCommand_eq, effectOf_withControl, withControl_twice]
  rfl

/-- The stages' checks are parts of HOTP's. -/
theorem checks_stages_of_hotp (h : checks .hotp b = 0) :
    checks .hmac b = 0 ∧ checks .trunc b = 0 ∧ checks .reduce b = 0 := by
  obtain ⟨halg, hlen, hdigits⟩ := (checks_hotp_eq_zero_iff b).1 h
  exact ⟨checks_hmac_eq_zero_iff.2 ⟨halg, hlen⟩, checks_trunc_eq_zero_iff.2 halg, checks_reduce_eq_zero_iff.2 hdigits⟩

/-- Settles O52: both runs are runs of whole commands whose checks pass, and a command's effect does not see what the
command before it wrote to STATUS, ERRINFO and PEND_OP. -/
theorem compositesEqualTheirStages : Obligations.CompositesEqualTheirStages := by
  intro s hb
  constructor
  · intro hhotp
    obtain ⟨hhmac, htrunc, hreduce⟩ := checks_stages_of_hotp s.block hhotp
    exact ⟨_, _, runsTo_commands (is := []) rfl hb (by simp [State.withAgenda, hhotp]),
      runsTo_commands (is := [.trunc, .reduce]) rfl hb (by simp [State.withAgenda, hhmac, htrunc, hreduce]),
      congrArg (State.mk · [] none) (afterCommand_hotp s.block)⟩
  · intro htotp
    obtain ⟨hconv, hhotp⟩ := (checks_totp_eq_zero_iff s.block).1 htotp
    obtain ⟨hhmac, htrunc, hreduce⟩ := checks_stages_of_hotp s.block hhotp
    exact ⟨_, _, runsTo_commands (is := []) rfl hb (by simp [State.withAgenda, htotp]),
      runsTo_commands (is := [.hmac, .trunc, .reduce]) rfl hb
        (by simp [State.withAgenda, hconv, hhmac, htrunc, hreduce]),
      congrArg (State.mk · [] none) (afterCommand_totp s.block)⟩

end Sys2Proof.Machine

/-! ### Results and inputs (45_composite_and_key.md R235) -/

namespace Sys2Proof.Machine

variable {alg : HashAlg} {b c : Block}

theorem alg_of_sameInputs (h : b.sameInputs c) : hashAlgOf b.ctrl.alg = hashAlgOf c.ctrl.alg := by
  obtain ⟨hctrl, -⟩ := h
  rw [hctrl]

/-- The operands that effects read are functions of the input registers (30_encoding.md R105). -/
theorem operands_of_sameInputs (h : b.sameInputs c) :
    timeOf b = timeOf c ∧ periodOf b = periodOf c ∧ keyOf b = keyOf c ∧ messageOf b = messageOf c ∧
      binaryOf b = binaryOf c ∧ digitsOf b = digitsOf c := by
  obtain ⟨hctrl, hperiod, htimeLo, htimeHi, hcounterLo, hcounterHi, hkeylen, hbinary, -, hkey⟩ := h
  simp only [timeOf, periodOf, keyOf, keylenOf, messageOf, counterOf, binaryOf, digitsOf, hctrl, hperiod, htimeLo,
    htimeHi, hcounterLo, hcounterHi, hkeylen, hbinary, hkey, and_self]

theorem convEffect_sameInputs (h : b.sameInputs c) : (convEffect b).sameInputs (convEffect c) := by
  obtain ⟨htime, hperiod, -⟩ := operands_of_sameInputs h
  have hcounter : (convEffect b).counterLo = (convEffect c).counterLo ∧
      (convEffect b).counterHi = (convEffect c).counterHi := by
    simp only [convEffect, htime, hperiod, and_self]
  simp_all [Block.sameInputs]

theorem hmacEffect_sameInputs (h : b.sameInputs c) (halg : hashAlgOf b.ctrl.alg = some alg) :
    (hmacEffect b).sameInputs (hmacEffect c) := by
  obtain ⟨-, -, hkey, hmessage, -⟩ := operands_of_sameInputs h
  have hdigest : (hmacEffect b).digest = (hmacEffect c).digest := by
    rw [hmacEffect_of_alg b halg, hmacEffect_of_alg c ((alg_of_sameInputs h).symm.trans halg), hkey, hmessage]
  simp_all [Block.sameInputs]

/-- A digest has one truncation, so OFFSET does not depend on what it held before. -/
theorem truncEffect_sameInputs (h : b.sameInputs c) (halg : hashAlgOf b.ctrl.alg = some alg) :
    (truncEffect b).sameInputs (truncEffect c) ∧ (truncEffect b).offset = (truncEffect c).offset := by
  have hdigest : b.digest = c.digest := by simp_all [Block.sameInputs]
  have hb := truncEffect_truncates halg
  have hc := truncEffect_truncates (b := c) ((alg_of_sameInputs h).symm.trans halg)
  rw [← hdigest] at hc
  obtain ⟨hoffset, hbinary⟩ := hc.unique hb
  exact ⟨by simp_all [Block.sameInputs], hoffset⟩

/-- The two blocks show the same code. -/
def Block.sameCode (b c : Block) : Prop :=
  b.code = c.code ∧ b.bcdLo = c.bcdLo ∧ b.bcdHi = c.bcdHi ∧ b.ascii = c.ascii

theorem reduceEffect_sameInputs (h : b.sameInputs c) :
    (reduceEffect b).sameInputs (reduceEffect c) ∧ (reduceEffect b).sameCode (reduceEffect c) := by
  obtain ⟨-, -, -, -, hbinary, hdigits⟩ := operands_of_sameInputs h
  exact ⟨h, by simp only [Block.sameCode, reduceEffect, hbinary, hdigits, and_self]⟩

theorem hotpEffect_sameInputs (h : b.sameInputs c) (halg : hashAlgOf b.ctrl.alg = some alg) :
    (hotpEffect b).sameInputs (hotpEffect c) ∧ (hotpEffect b).offset = (hotpEffect c).offset ∧
      (hotpEffect b).sameCode (hotpEffect c) := by
  obtain ⟨htrunc, hoffset⟩ := truncEffect_sameInputs (hmacEffect_sameInputs h halg) (by rwa [hmacEffect_ctrl])
  obtain ⟨hreduce, hcode⟩ := reduceEffect_sameInputs htrunc
  exact ⟨hreduce, hoffset, hcode⟩

/-- The two blocks hold the same inputs and the same results of command `i` (30_encoding.md R104). -/
def Block.sameResults (i : Instr) (b c : Block) : Prop :=
  b.sameInputs c ∧ (i = .trunc ∨ i = .hotp ∨ i = .totp → b.offset = c.offset) ∧
    (i = .reduce ∨ i = .hotp ∨ i = .totp → b.sameCode c)

/-- What an accepted command writes is a function of the input registers (45_composite_and_key.md R235). -/
theorem effectOf_sameResults {i : Instr} (h : b.sameInputs c) (hchecks : checks i b = 0) :
    (effectOf i b).sameResults i (effectOf i c) := by
  obtain ⟨-, halg, -⟩ := (checks_eq_zero_iff b i).1 hchecks
  have legalAlg (hreads : readsAlg i = true) : ∃ alg, hashAlgOf b.ctrl.alg = some alg :=
    Option.ne_none_iff_exists'.1 fun hnone => halg hreads ((hashAlgOf_eq_none_iff _).1 hnone)
  cases i with
  | conv => exact ⟨convEffect_sameInputs h, nofun, nofun⟩
  | hmac =>
    obtain ⟨alg, halg⟩ := legalAlg rfl
    exact ⟨hmacEffect_sameInputs h halg, nofun, nofun⟩
  | trunc =>
    obtain ⟨alg, halg⟩ := legalAlg rfl
    obtain ⟨hinputs, hoffset⟩ := truncEffect_sameInputs h halg
    exact ⟨hinputs, fun _ => hoffset, nofun⟩
  | reduce =>
    obtain ⟨hinputs, hcode⟩ := reduceEffect_sameInputs h
    exact ⟨hinputs, nofun, fun _ => hcode⟩
  | hotp =>
    obtain ⟨alg, halg⟩ := legalAlg rfl
    obtain ⟨hinputs, hoffset, hcode⟩ := hotpEffect_sameInputs h halg
    exact ⟨hinputs, fun _ => hoffset, fun _ => hcode⟩
  | totp =>
    obtain ⟨alg, halg⟩ := legalAlg rfl
    obtain ⟨hinputs, hoffset, hcode⟩ := hotpEffect_sameInputs (convEffect_sameInputs h) halg
    exact ⟨hinputs, fun _ => hoffset, fun _ => hcode⟩
  | zeroize => exact ⟨by simp_all [Block.sameInputs, effectOf, zeroizeEffect], nofun, nofun⟩

/-- Bus transactions before the completion: the command stays pending and no input changes (60_exceptions.md R257). -/
theorem runsTo_bus_busy {es rest : List Event} {s : State} (hagenda : s.agenda = es ++ rest)
    (hes : ∀ e ∈ es, e.isBus = true) (hb : s.block.status.busy = true) :
    ∃ t, RunsTo es.length s t ∧ t.agenda = rest ∧ t.block.status.busy = true ∧ t.block.pendOp = s.block.pendOp ∧
      s.block.sameInputs t.block := by
  induction es generalizing s with
  | nil => exact ⟨s, runsTo_zero.2 rfl, hagenda, hb, rfl, sameInputs_refl _⟩
  | cons e es ih =>
    obtain ⟨u, hstep, huagenda, hub, hup, huin⟩ := step_bus_busy hagenda (hes e (by simp)) hb
    obtain ⟨t, hrun, htagenda, htb, htp, htin⟩ := ih huagenda (fun x hx => hes x (by simp [hx])) hub
    exact ⟨t, runsTo_succ.2 ⟨u, hstep, hrun⟩, htagenda, htb, htp.trans hup, sameInputs_trans huin htin⟩

/-- A command accepted in an idle block completes, after any bus transactions, on the inputs of its acceptance. -/
theorem runsTo_command_delayed {i : Instr} {es : List Event} {s : State}
    (hagenda : s.agenda = commandEvent i :: es ++ [.engine]) (hes : ∀ e ∈ es, e.isBus = true)
    (hb : s.block.status.busy = false) (hchecks : checks i s.block = 0) :
    ∃ c : Block, s.block.sameInputs c ∧
      RunsTo (es.length + 2) s { block := finish (effectOf i c), agenda := [], readData := none } := by
  have haccept := step_commandEvent hagenda hb hchecks
  obtain ⟨u, hrun, huagenda, hub, hup, huin⟩ := runsTo_bus_busy
    (s := ⟨accept (opcode i) s.block, es ++ [.engine], none⟩) rfl hes rfl
  have hin : s.block.sameInputs u.block := huin
  have hcomplete := step_engineEvent huagenda hub hup ((checks_of_sameInputs hin).symm.trans hchecks)
  exact ⟨u.block, hin, runsTo_succ.2 ⟨_, haccept, runsTo_add hrun (runsTo_succ.2 ⟨_, hcomplete, runsTo_zero.2 rfl⟩)⟩⟩

/-- Settles O53: both completions start from the inputs of the acceptance, and a command's results are a function of
those. -/
theorem resultsDependOnInputsAtAcceptanceAlone : Obligations.ResultsDependOnInputsAtAcceptanceAlone := by
  intro i s s' es es' hb hb' hchecks hin hes hes'
  have hchecks' : checks i s'.block = 0 := (checks_of_sameInputs hin).symm.trans hchecks
  obtain ⟨c, hc, hrun⟩ := runsTo_command_delayed (s := s.withAgenda (commandEvent i :: es ++ [.engine])) rfl hes hb
    hchecks
  obtain ⟨c', hc', hrun'⟩ := runsTo_command_delayed (s := s'.withAgenda (commandEvent i :: es' ++ [.engine])) rfl hes'
    hb' hchecks'
  have hcc' : c.sameInputs c' := sameInputs_trans (sameInputs_symm hc) (sameInputs_trans hin hc')
  obtain ⟨hinputs, hoffset, hcode⟩ := effectOf_sameResults hcc' ((checks_of_sameInputs hc).symm.trans hchecks)
  exact ⟨_, _, hrun, hrun', rfl, rfl, hinputs, hoffset, hcode⟩

end Sys2Proof.Machine

/-! ### The software entry point (45_composite_and_key.md R234) -/

namespace Sys2Proof.Machine

variable {alg : HashAlg} {secret : List Byte} {algBits : BitVec 2} {d : BitVec 4} {period : Word} {time : BitVec 64}
  {b : Block}

/-- The program of `generate`, without its WAIT (45_composite_and_key.md R234). -/
def generateProgram (secret : List Byte) (algBits : BitVec 2) (d : BitVec 4) (period : Word) (time : BitVec 64) :
    List Pseudo :=
  [.loadKey secret, .config algBits d, .base (.wr (.reg .period) period), .wr64Time time, .base (.cmd .totp)]

/-- The word that CONFIG writes to CTRL (30_encoding.md R112). -/
def configWord (algBits : BitVec 2) (d : BitVec 4) : Word := (d.setWidth 32 <<< 4) ||| algBits.setWidth 32

/-- The stores of `generate` before its command. -/
def generateWrites (secret : List Byte) (algBits : BitVec 2) (d : BitVec 4) (period : Word) (time : BitVec 64) :
    List (Reg × Word) :=
  loadKeyWrites secret ++ [(.ctrl, configWord algBits d), (.period, period), (.timeLo, time.extractLsb' 0 32),
    (.timeHi, time.extractLsb' 32 32)]

theorem generateWrites_isInput (secret : List Byte) (algBits : BitVec 2) (d : BitVec 4) (period : Word)
    (time : BitVec 64) : ∀ x ∈ generateWrites secret algBits d period time, isInput x.1 = true := by
  intro x hx
  rcases List.mem_append.1 hx with hkey | hrest
  · exact loadKeyWrites_isInput secret x hkey
  · fin_cases hrest <;> rfl

/-- Stores in input registers do not touch STATUS (20_memory.md R81). -/
@[simp] theorem storeInputs_status (ws : List (Reg × Word)) (b : Block) : (storeInputs ws b).status = b.status := by
  induction ws generalizing b with
  | nil => rfl
  | cons x ws ih => exact (ih _).trans (storeInput_status x.2 b x.1)

/-- CONFIG's word holds the two fields of CTRL (20_memory.md R81). -/
theorem ctrl_ofWord_configWord : Ctrl.ofWord (configWord algBits d) = { digits := d, alg := algBits } := by
  have hdigits : (configWord algBits d).extractLsb' 4 4 = d := by
    revert algBits d
    decide
  have halg : (configWord algBits d).extractLsb' 0 2 = algBits := by
    revert algBits d
    decide
  rw [Ctrl.ofWord, hdigits, halg]

/-- The transactions of `generate` are its stores and the CMD write of TOTP. -/
theorem generate_transactions (h : secret.length ≤ 256) :
    (assemble (generateProgram secret algBits d period time)).filterMap Stmt.transaction =
      storeEvents (generateWrites secret algBits d period time) ++ [commandEvent .totp] := by
  simp only [assemble, generateProgram, List.flatMap_cons, List.filterMap_append, loadKey_transactions h,
    generateWrites, storeEvents, List.map_append, List.append_assoc]
  rfl

theorem storeInputs_append (ws ws' : List (Reg × Word)) (b : Block) :
    storeInputs (ws ++ ws') b = storeInputs ws' (storeInputs ws b) := List.foldl_append

/-- The block holds the operands of `generate`: the secret as its key, and CTRL, PERIOD and TIME. -/
def Block.holdsOperands (b : Block) (secret : List Byte) (algBits : BitVec 2) (d : BitVec 4) (period : Word)
    (time : BitVec 64) : Prop :=
  keylenOf b = secret.length ∧ keyOf b = secret ∧ b.ctrl = { digits := d, alg := algBits } ∧ b.period = period ∧
    timeOf b = time.toNat

/-- After the stores of `generate` the block holds its operands. -/
theorem storeInputs_generateWrites (h : secret.length ≤ 256) (b : Block) :
    (storeInputs (generateWrites secret algBits d period time) b).holdsOperands secret algBits d period time := by
  obtain ⟨key, hstore, hkey⟩ := storeInputs_loadKeyWrites h b
  have hlen : (BitVec.ofNat 16 secret.length).toNat = secret.length := by
    rw [BitVec.toNat_ofNat]
    omega
  have htime : time.extractLsb' 32 32 ++ time.extractLsb' 0 32 = time :=
    BitVec.extractLsb'_append_extractLsb' (w := 32) (len := 32)
  rw [generateWrites, storeInputs_append, hstore]
  exact ⟨hlen, keyOf_eq h hlen fun i hi => (hkey i).trans (if_pos (by omega)), ctrl_ofWord_configWord, rfl,
    congrArg BitVec.toNat htime⟩

/-- TOTP's effect on the operands of `generate` (45_composite_and_key.md R231, R234). -/
theorem totpEffect_of_holdsOperands (h : b.holdsOperands secret algBits d period time)
    (halg : hashAlgOf algBits = some alg) (hperiod : 1 ≤ period.toInt) :
    HoldsDigest alg (hmac alg secret (beBytes 8 (time.toNat / period.toNat))) (totpEffect b).digest ∧
      Truncates (digestLen alg) (totpEffect b).digest (totpEffect b).offset (totpEffect b).binary ∧
      ShowsCode (binaryOf (totpEffect b)) d.toNat (totpEffect b) := by
  obtain ⟨-, hkey, hctrl, rfl, htime⟩ := h
  have hmessage : messageOf (convEffect b) = beBytes 8 (time.toNat / b.period.toNat) := by
    rw [messageOf, counterOf_convEffect, htime, periodOf_toNat hperiod]
  have hkey' : keyOf (convEffect b) = secret := hkey
  have hdigits : digitsOf (convEffect b) = d.toNat := by simp [digitsOf, hctrl]
  rw [← hmessage, ← hkey', ← hdigits]
  exact hotpEffect_stages (convEffect b) (by rwa [convEffect_ctrl, hctrl])

/-- Legal operands of `generate` pass TOTP's checks. -/
theorem checks_totp_of_holdsOperands (h : b.holdsOperands secret algBits d period time) (hlen : secret.length ≤ 256)
    (halg : hashAlgOf algBits = some alg) (h6 : 6 ≤ d.toNat) (h10 : d.toNat ≤ 10) (hperiod : 1 ≤ period.toInt) :
    checks .totp b = 0 := by
  obtain ⟨hkeylen, -, hctrl, rfl, -⟩ := h
  rw [checks_totp_eq_zero_iff, checks_conv_eq_zero_iff, checks_hotp_eq_zero_iff, hctrl]
  exact ⟨hperiod, alg_ne_reserved halg, hkeylen.trans_le hlen, h6, h10⟩

/-- Settles O51: the transactions are stores of the operands and the command, which completes on those operands. -/
theorem softwareEntryPointGeneratesTheCode : Obligations.SoftwareEntryPointGeneratesTheCode := by
  intro s secret algBits alg d period time hb hlen halg h6 h10 hperiod es
  have hes : es = storeEvents (generateWrites secret algBits d period time) ++ [commandEvent .totp, .engine] := by
    show (assemble (generateProgram secret algBits d period time)).filterMap Stmt.transaction ++ [.engine] = _
    rw [generate_transactions hlen, List.append_assoc]
    rfl
  have hlength : es.length = (generateWrites secret algBits d period time).length + 2 := by simp [hes]
  obtain ⟨u, hstores, hagenda, hblock⟩ := runsTo_storeInputs (s := s.withAgenda es) hes
    (generateWrites_isInput secret algBits d period time) hb
  have hub : u.block.status.busy = false := by rwa [hblock, storeInputs_status]
  have hoperands : u.block.holdsOperands secret algBits d period time := by
    rw [hblock]
    exact storeInputs_generateWrites hlen _
  have hchecks := checks_totp_of_holdsOperands hoperands hlen halg h6 h10 hperiod
  have hrun := runsTo_add hstores (runsTo_command hagenda hub hchecks)
  rw [← afterCommand, afterCommand_eq, ← hlength] at hrun
  obtain ⟨hdigest, htruncates, hcode⟩ := totpEffect_of_holdsOperands hoperands halg hperiod
  exact ⟨_, hrun, rfl, rfl, rfl, hdigest, htruncates, hcode⟩

end Sys2Proof.Machine

/-! ### The check mask, bit by bit (60_exceptions.md R252, R254) -/

namespace Sys2Proof.Machine

/-- The four flags of a mask, each at its own bit. -/
theorem mask_bits (d c x a : Bool) :
    let mask : BitVec 4 := BitVec.ofBool d ++ BitVec.ofBool c ++ BitVec.ofBool x ++ BitVec.ofBool a
    mask.getLsbD 0 = a ∧ mask.getLsbD 1 = x ∧ mask.getLsbD 2 = c ∧ mask.getLsbD 3 = d := by
  revert d c x a
  decide

theorem readsPeriod_iff (i : Instr) : readsPeriod i = true ↔ i = .conv ∨ i = .totp := by
  cases i <;> simp [readsPeriod]

theorem readsAlg_iff (i : Instr) : readsAlg i = true ↔ i = .hmac ∨ i = .trunc ∨ i = .hotp ∨ i = .totp := by
  cases i <;> simp [readsAlg]

theorem readsKey_iff (i : Instr) : readsKey i = true ↔ i = .hmac ∨ i = .hotp ∨ i = .totp := by
  cases i <;> simp [readsKey]

theorem readsDigits_iff (i : Instr) : readsDigits i = true ↔ i = .reduce ∨ i = .hotp ∨ i = .totp := by
  cases i <;> simp [readsDigits]

/-- Settles O11: each bit is the flag "the command reads the operand, and the operand is bad". -/
theorem checkMaskReportsEveryFailedCheck : Obligations.CheckMaskReportsEveryFailedCheck := by
  intro i b
  obtain ⟨h0, h1, h2, h3⟩ := mask_bits (readsDigits i && badDigits b) (readsKey i && badKeylen b)
    (readsAlg i && badAlg b) (readsPeriod i && badPeriod b)
  rw [checks, h0, h1, h2, h3]
  simp only [Bool.and_eq_true]
  refine ⟨and_congr (readsPeriod_iff i) (badPeriod_iff b), and_congr (readsAlg_iff i) (badAlg_iff b),
    and_congr (readsKey_iff i) (badKeylen_iff b), and_congr (readsDigits_iff i) (badDigits_iff b), ?_⟩
  rintro rfl
  exact checks_zeroize b

end Sys2Proof.Machine

/-! ### The CMD write as a step of the machine (60_exceptions.md R255, R256, R257) -/

namespace Sys2Proof.Machine

variable {s t : State} {off : BitVec 12} {w : Word} {rest : List Event}

/-- In the idle block the CMD write of a reserved opcode is rejected, no parameter checked (60_exceptions.md R258). -/
theorem step_cmdWrite_illegal {op : BitVec 4} (hagenda : s.agenda = .write off w :: rest) (hoff : off &&& 0xFFC = 0x024)
    (hb : s.block.status.busy = false) (hd : decode w = .error (.illegalCommand op)) :
    step s = .next { s with agenda := rest, readData := none, block := rejectIllegal op s.block } := by
  rw [step_cmdWrite hagenda (regAt_eq_cmd_iff.2 hoff), cmdWrite, advance_block, hb, hd]
  rfl

/-- In the idle block the CMD write of a legal word issues its command (60_exceptions.md R255). -/
theorem step_cmdWrite_issue {i : Instr} (hagenda : s.agenda = .write off w :: rest) (hoff : off &&& 0xFFC = 0x024)
    (hb : s.block.status.busy = false) (hd : decode w = .ok i) :
    step s = .next { s with agenda := rest, readData := none, block := issue i s.block } := by
  rw [commandWriteRunsDecodedCommand s off w rest i hagenda hoff hb hd, exec_idle (by exact hb)]
  rfl

/-- Settles O12: both kinds of rejection are `reject`, and the recorded OP is the word's opcode field. -/
theorem rejectionChangesThreeFieldsOnly : Obligations.RejectionChangesThreeFieldsOnly := by
  intro s off w rest hagenda hoff hb
  constructor
  · intro op hd
    obtain ⟨rfl, -⟩ := decode_eq_error_iff.1 hd
    exact step_cmdWrite_illegal hagenda hoff hb hd
  · intro i hd hchecks
    rw [step_cmdWrite_issue hagenda hoff hb hd, issue, if_neg hchecks, ← opField_of_decode hd]
    rfl

/-- Settles O13: the issue of a command whose checks pass is `accept`, and PEND_OP is the word's opcode field. -/
theorem acceptanceSetsBusyAndPending : Obligations.AcceptanceSetsBusyAndPending := by
  intro s off w rest i hagenda hoff hb hd hchecks
  rw [step_cmdWrite_issue hagenda hoff hb hd, issue, if_pos hchecks, ← opField_of_decode hd]
  rfl

/-- Settles O14: the CMD write looks at BUSY before it decodes, and every input register looks at BUSY before it
stores. -/
theorem writeWhileBusyOnlyOverruns : Obligations.WriteWhileBusyOnlyOverruns := by
  rintro s off w rest r hagenda hb hr (rfl | hi)
  · rw [step_cmdWrite hagenda hr, cmdWrite, advance_block, if_pos hb]
    rfl
  · have hoff : off &&& 0xFFC = r.off := registerMapAndDecoderAgree.2 off r hr
    rw [step_write_input r hi hagenda hoff, if_pos hb]
    rfl

/-! ### The interrupt level (60_exceptions.md R262, R263) -/

theorem irq_iff (b : Block) :
    irq b = true ↔ (b.status.done = true ∧ b.irqEn.doneIe = true) ∨ (b.status.err = true ∧ b.irqEn.errIe = true) ∨
      (b.status.overrun = true ∧ b.irqEn.ovrIe = true) := by
  simp only [irq, Bool.or_eq_true, Bool.and_eq_true, or_assoc]

/-- Settles O24: the level is the disjunction of the enabled flags, and the line is compared with IRQ_LINE. -/
theorem interruptLevelIsTheEnabledFlags : Obligations.InterruptLevelIsTheEnabledFlags := by
  refine fun b line => ⟨irq_iff b, ?_⟩
  rw [drivesIrqLine, Bool.and_eq_true, decide_eq_true_iff]

/-- `c` has the interrupt enables of `b` and every error flag that is set in `b`. -/
def Block.keepsErrorFlags (b c : Block) : Prop :=
  c.irqEn = b.irqEn ∧ (b.status.err = true → c.status.err = true) ∧
    (b.status.overrun = true → c.status.overrun = true)

/-- No CMD write clears an error flag: an acceptance leaves both as they are (60_exceptions.md R255). -/
theorem cmdWrite_keepsErrorFlags (h : cmdWrite w s = .next t) : s.block.keepsErrorFlags t.block := by
  rcases cmdWrite_cases w s with ⟨-, h'⟩ | ⟨op, -, -, h'⟩ | ⟨i, -, -, h'⟩ <;> rw [h'] at h <;> cases h
  · exact ⟨rfl, id, fun _ => rfl⟩
  · exact ⟨rfl, fun _ => rfl, id⟩
  · rw [withBlock_block]
    rcases issue_cases i s.block with ⟨-, hissue⟩ | ⟨-, hissue⟩ <;> rw [hissue]
    · exact ⟨rfl, id, id⟩
    · exact ⟨rfl, fun _ => rfl, id⟩

/-- The engine's turn writes BUSY and DONE alone in STATUS (10_state.md R46). -/
theorem engineTurn_keepsErrorFlags (h : engineTurn s = .next t) : s.block.keepsErrorFlags t.block := by
  rcases engineTurn_block h with ⟨-, hblock⟩ | ⟨i, -, -, -, hblock⟩ <;> rw [hblock]
  · exact ⟨rfl, id, id⟩
  · simp [Block.keepsErrorFlags]

/-- Only a write of STATUS or of IRQ_EN can clear an error flag or an enable (20_memory.md R81). -/
theorem registerWrite_errorFlags (off : BitVec 12) (w : Word) (b : Block) :
    (off &&& 0xFFC = 0x028 ∧ registerWrite off w b = writeStatus w b) ∨
      (off &&& 0xFFC = 0x030 ∧ registerWrite off w b = writeIrqEn w b) ∨
      b.keepsErrorFlags (registerWrite off w b) := by
  rcases registerWrite_cases off w b with ⟨hr, h⟩ | ⟨hr, h⟩ | ⟨r, -, -, -, h⟩ | ⟨r, -, -, -, h⟩ | h
  · exact .inl ⟨registerMapAndDecoderAgree.2 off .status hr, h⟩
  · exact .inr (.inl ⟨registerMapAndDecoderAgree.2 off .irqEn hr, h⟩)
  · exact .inr (.inr (by rw [h]; exact ⟨rfl, id, fun _ => rfl⟩))
  · exact .inr (.inr (by simp [h, Block.keepsErrorFlags]))
  · exact .inr (.inr (by rw [h]; exact ⟨rfl, id, id⟩))

/-- Everything a step but a reset can do to the error flags and the enables: it is a write of STATUS or of IRQ_EN, or it
keeps them. -/
theorem step_errorFlags (h : step s = .next t) (hreset : ∀ rest, s.agenda ≠ .reset :: rest) :
    (∃ off w rest, s.agenda = .write off w :: rest ∧ off &&& 0xFFC = 0x028 ∧ t.block = writeStatus w s.block) ∨
      (∃ off w rest, s.agenda = .write off w :: rest ∧ off &&& 0xFFC = 0x030 ∧ t.block = writeIrqEn w s.block) ∨
      s.block.keepsErrorFlags t.block := by
  rcases hagenda : s.agenda with _ | ⟨e, rest⟩
  · rw [step_nil hagenda] at h
    exact .inr (.inr (engineTurn_keepsErrorFlags (s := advance [] s) h))
  · cases e with
    | read off =>
      rw [step_read hagenda] at h
      cases h
      exact .inr (.inr ⟨rfl, id, id⟩)
    | write off w =>
      by_cases hr : regAt off = some .cmd
      · rw [step_cmdWrite hagenda hr] at h
        exact .inr (.inr (cmdWrite_keepsErrorFlags (s := advance rest s) h))
      · rw [step_registerWrite hagenda hr] at h
        cases h
        rcases registerWrite_errorFlags off w s.block with ⟨hoff, hblock⟩ | ⟨hoff, hblock⟩ | hkept
        · exact .inl ⟨off, w, rest, rfl, hoff, hblock⟩
        · exact .inr (.inl ⟨off, w, rest, rfl, hoff, hblock⟩)
        · exact .inr (.inr hkept)
    | engine =>
      rw [step_cons hagenda] at h
      exact .inr (.inr (engineTurn_keepsErrorFlags (s := advance rest s) h))
    | reset => exact absurd hagenda (hreset rest)

/-- Settles O25: BUSY rises by acceptance alone, which clears DONE; and only a STATUS or an IRQ_EN write can lower an
error flag or its enable, which the bits of the written word then rule out. -/
theorem errorInterruptsStayUntilAcknowledged : Obligations.ErrorInterruptsStayUntilAcknowledged := by
  refine ⟨fun s t h hs ht => ?_, fun s t h hreset hwrite hflag henable => ?_,
    fun s t h hreset hwrite hflag henable => ?_⟩
  · obtain ⟨off, w, rest, i, hagenda, hoff, hd, hchecks, -⟩ := step_busy_rises h hs ht
    rw [acceptanceSetsBusyAndPending s off w rest i hagenda hoff hs hd hchecks] at h
    cases h
    rfl
  · refine (irq_iff t.block).2 (.inr (.inl ?_))
    rcases step_errorFlags h hreset with ⟨off, w, rest, hagenda, hoff, hblock⟩ |
      ⟨off, w, rest, hagenda, hoff, hblock⟩ | ⟨hirqEn, herr, -⟩
    · have hbit := (hwrite off w rest hagenda).1 hoff
      rw [hblock, writeStatus_status, clearedBy_err, hflag, hbit]
      exact ⟨rfl, henable⟩
    · have hbit := (hwrite off w rest hagenda).2 hoff
      rw [hblock]
      exact ⟨hflag, hbit⟩
    · exact ⟨herr hflag, hirqEn ▸ henable⟩
  · refine (irq_iff t.block).2 (.inr (.inr ?_))
    rcases step_errorFlags h hreset with ⟨off, w, rest, hagenda, hoff, hblock⟩ |
      ⟨off, w, rest, hagenda, hoff, hblock⟩ | ⟨hirqEn, -, hoverrun⟩
    · have hbit := (hwrite off w rest hagenda).1 hoff
      rw [hblock, writeStatus_status, clearedBy_overrun, hflag, hbit]
      exact ⟨rfl, henable⟩
    · have hbit := (hwrite off w rest hagenda).2 hoff
      rw [hblock]
      exact ⟨hflag, hbit⟩
    · exact ⟨hoverrun hflag, hirqEn ▸ henable⟩

end Sys2Proof.Machine

/-! ### Reset and the bounded wait for the completion (70_reset_and_hazards.md R280, R292) -/

namespace Sys2Proof.Machine

variable {s t : State}

/-- Settles O2: the reset event writes the whole block, and the rest of the agenda stays. -/
theorem resetStepAbandonsEverything : Obligations.ResetStepAbandonsEverything := by
  intro s rest hagenda
  rw [step_cons hagenda]
  rfl

/-- A legal machine runs for any number of steps: each takes its event off the agenda and keeps the machine legal. -/
theorem runsTo_of_legal (n : Nat) (h : s.Legal) : ∃ t, RunsTo n s t ∧ t.agenda = s.agenda.drop n ∧ t.Legal := by
  induction n generalizing s with
  | zero => exact ⟨s, runsTo_zero.2 rfl, rfl, h⟩
  | succ n ih =>
    obtain ⟨u, hstep⟩ := legalMachineNeverStops s h
    obtain ⟨t, hrun, hagenda, hlegal⟩ := ih (everyStepKeepsLegality s u h hstep)
    refine ⟨t, runsTo_succ.2 ⟨u, hstep, hrun⟩, ?_, hlegal⟩
    rw [hagenda, step_agenda hstep, List.drop_tail]

/-- The engine's turn ends with BUSY clear: a completion lowers it, and an idle block stays idle (10_state.md R46). -/
theorem engineTurn_ends_idle (h : engineTurn s = .next t) : t.block.status.busy = false := by
  rcases engineTurn_block h with ⟨hidle, -⟩ | ⟨i, -, -, -, hblock⟩
  · exact engineTurn_idle h hidle
  · rw [hblock]
    rfl

/-- Settles O54: the run empties the agenda, and the step after it is then the engine's turn. -/
theorem pendingCommandIsEventuallyCompleted : Obligations.PendingCommandIsEventuallyCompleted := by
  intro s hlegal
  obtain ⟨u, hrun, hagenda, hulegal⟩ := runsTo_of_legal s.agenda.length hlegal
  rw [List.drop_length] at hagenda
  obtain ⟨t, hstep⟩ := legalMachineNeverStops u hulegal
  refine ⟨t, runsTo_add hrun (runsTo_succ.2 ⟨t, hstep, runsTo_zero.2 rfl⟩), ?_, ?_,
    everyStepKeepsLegality u t hulegal hstep⟩
  · rw [step_agenda hstep, hagenda, List.tail_nil]
  · rw [step_nil hagenda] at hstep
    exact engineTurn_ends_idle hstep

end Sys2Proof.Machine
